-- ==== Sys2Proof/Word.lean ====
section
/-! DEFINITION. The word types of the block (00_scope.md R9, R10). -/

namespace Sys2Proof

/-- A register, response or clock-period word, 32 bits (R9 `XLEN`, `RSP_W`, `CLKPER_W`). -/
abbrev Word := BitVec 32

/-- A data byte (R24 `b`, R57, R58). -/
abbrev Byte := BitVec 8

/-- A host command word, 64 bits (R80). -/
abbrev CmdWord := BitVec 64

/-- A channel index, 0 or 1 (R22 `c`). -/
abbrev Channel := BitVec 1

end Sys2Proof
end

