-- ==== Sys2Proof/Config.lean ====
section
/-! DEFINITION. The parameters of 00_scope.md R9 and the free values: what the spec leaves to the
implementation or to the environment. An opaque constant here has no value any proof can see. -/

namespace Sys2Proof

/-- `POLL_MAX`, polls per wait (R9, R121). -/
def Config.pollMax : Nat := 100

/-- `POLL_DELAY` in microseconds (R9, R121). -/
def Config.pollDelay : Nat := 1

/-- `E_NOACK`, -1 (R9, R84). -/
def Config.eNoAck : Word := 0xFFFFFFFF

/-- `E_TIMEOUT`, -2 (R9, R84). -/
def Config.eTimeout : Word := 0xFFFFFFFE

/-- The oracle's free choice (R61, U10): the word the k-th free read of SR or RHR returns.
DESIGN CHOICE, safe: log entry 2. -/
opaque Config.freeWord : Nat → Word

/-- The byte the k-th free read of the host buffer returns, where the host lent no byte (U7).
DESIGN CHOICE, safe: log entry 3. -/
opaque Config.freeByte : Nat → Byte

/-- `PID[0]`, an open parameter of 8 bits (R9, R101). -/
opaque Config.pid0 : BitVec 8

/-- Any 8-bit number, from which `PID[1]` is made. -/
opaque Config.pidOther : BitVec 8

/-- `PID[1]`: any identifier but `PID[0]` (R9: they "must differ"; log entry 8). -/
def Config.pid1 : BitVec 8 :=
  if Config.pidOther = Config.pid0 then Config.pid0 + 1 else Config.pidOther

/-- `PID[c]` (R9, R21). -/
def Config.pid (c : Channel) : BitVec 8 := if c = 0 then Config.pid0 else Config.pid1

/-- Any 30-bit number: the word number of `BASE[0]`. -/
opaque Config.baseWord0 : BitVec 30

/-- Any 30-bit number, from which the word number of `BASE[1]` is made. -/
opaque Config.baseWordOther : BitVec 30

/-- Two blocks of fourteen words (0x00 to 0x37, R51) at these word numbers do not overlap. -/
def Config.blocksDisjoint (x y : BitVec 30) : Bool := 14 ≤ (x - y).toNat && 14 ≤ (y - x).toNat

/-- The word number of `BASE[1]`: any that keeps the two blocks apart (R9; log entry 8). -/
def Config.baseWord1 : BitVec 30 :=
  if Config.blocksDisjoint Config.baseWord0 Config.baseWordOther then Config.baseWordOther
  else Config.baseWord0 + 14

/-- `BASE[c]`, word-aligned by construction (R9, R51). -/
def Config.base (c : Channel) : Word :=
  (if c = 0 then Config.baseWord0 else Config.baseWord1) ++ 0#2

end Sys2Proof
end

