-- ==== Sys2Proof/Syntax.lean ====
section
/-! DEFINITION. The instruction set of 00_scope.md R4: one constructor per row of
spec/opcode_table.json. -/

namespace Sys2Proof

/-- The ready bit a `WAIT_FOR` asks for (R120). -/
inductive ReadyBit where
  | txrdy
  | rxrdy
  deriving DecidableEq, Repr

/-- The instructions of R4. The channel of `WAIT_FOR` and of the CR words is the latched one
(R120, R22), so it is no operand; the buffer of a transaction is a port, so it is none either (R82). -/
inductive Instr where
  /-- `INIT` (R111), operands of format I (R81). -/
  | init (chsel : BitVec 8) (clkper : Word)
  /-- `MASTER_WRITE` (R130), operands of format T (R82). -/
  | masterWrite (handle iasz : BitVec 2) (sadr : BitVec 10) (len : BitVec 16) (iaddr : BitVec 24)
  /-- `MASTER_READ` (R140), operands of format T (R82). -/
  | masterRead (handle iasz : BitVec 2) (sadr : BitVec 10) (len : BitVec 16) (iaddr : BitVec 24)
  /-- `WAIT_FOR` (R121), internal. -/
  | waitFor (ready : ReadyBit)
  /-- `CR.START` (R157). -/
  | crStart
  /-- `CR.STOP` (R158). -/
  | crStop
  /-- `CR.START_STOP` (R159). -/
  | crStartStop
  /-- `CR.MSEN` (R155). -/
  | crMsen
  /-- `CR.MSDIS` (R156). -/
  | crMsdis
  deriving DecidableEq, Repr

end Sys2Proof
end

