-- ==== Sys2Proof/WellFormed.lean ====
section
/-! DEFINITION. Which instructions have a legal encoding (30_encoding.md R96). The one check of R96
that depends on state, the initialised slot, is made when the command is admitted. -/

namespace Sys2Proof

/-- `HANDLE` is 1 or 2 (R85, R96). -/
def handleLegal (handle : BitVec 2) : Bool := handle = 1 || handle = 2

/-- `LEN` is at least 1 (R82, R96). -/
def lenLegal (len : BitVec 16) : Bool := len ≠ 0

/-- The operands make a legal encoding (R96). An `INIT` with any selector is legal. -/
def Instr.wellFormed : Instr → Bool
  | .init _ _ => true
  | .masterWrite handle _ _ len _ => handleLegal handle && lenLegal len
  | .masterRead handle _ _ len _ => handleLegal handle && lenLegal len
  | .waitFor _ => true
  | .crStart => true
  | .crStop => true
  | .crStartStop => true
  | .crMsen => true
  | .crMsdis => true

end Sys2Proof
end

