-- ==== Sys2Proof/Decode.lean ====
section
/-! DEFINITION. The encodings of 30_encoding.md: a total decoder for the command port and for the CR
port, which rejects by name, and the encoder. -/

namespace Sys2Proof

/-- Why a word is no instruction (30_encoding.md R96, U4, U15). -/
inductive DecodeError where
  /-- `OP = 0`: no operation has this code. -/
  | reservedOp
  /-- Format I with any of bits 31 to 10 set. -/
  | reservedInitBits
  /-- Format T with any of bits 63 to 56 set. -/
  | reservedTransactionBits
  /-- A CR word outside the five of the contract. -/
  | unknownCrWord
  deriving DecidableEq, Repr

/-- `v[hi:lo]` of R10, given by its low bit and its width. -/
def field {w : Nat} (v : BitVec w) (lo width : Nat) : BitVec width := v.extractLsb' lo width

/-- The five command words of R95 (bits of R88). -/
def crStartWord : Word := 0x00000001
/-- `CR.STOP`, R95, R158. -/
def crStopWord : Word := 0x00000002
/-- `CR.START_STOP`, R95, R159. -/
def crStartStopWord : Word := 0x00000003
/-- `CR.MSEN`, R95, R155. -/
def crMsenWord : Word := 0x00000004
/-- `CR.MSDIS`, R95, R156. -/
def crMsdisWord : Word := 0x00000008

/-- Decode a command word: `OP` selects the format (R80, R98), the fields are copied unsigned (R81,
R82, R83), the reserved bits must be 0 (R96). -/
def decodeCommand (w : CmdWord) : Except DecodeError Instr :=
  if field w 0 2 = 0 then .error .reservedOp
  else if field w 0 2 = 1 then
    if field w 10 22 = 0 then .ok (.init (field w 2 8) (field w 32 32)) else .error .reservedInitBits
  else if field w 56 8 = 0 then
    if field w 0 2 = 2 then
      .ok (.masterWrite (field w 2 2) (field w 4 2) (field w 6 10) (field w 16 16) (field w 32 24))
    else .ok (.masterRead (field w 2 2) (field w 4 2) (field w 6 10) (field w 16 16) (field w 32 24))
  else .error .reservedTransactionBits

/-- Decode a word of the CR port: the whole word must be one of the five (R95). -/
def decodeCr (w : Word) : Except DecodeError Instr :=
  if w = crStartWord then .ok .crStart
  else if w = crStopWord then .ok .crStop
  else if w = crStartStopWord then .ok .crStartStop
  else if w = crMsenWord then .ok .crMsen
  else if w = crMsdisWord then .ok .crMsdis
  else .error .unknownCrWord

/-- An encoded instruction: a command word or a CR word (R95). -/
inductive Encoded where
  | command (w : CmdWord)
  | cr (w : Word)
  deriving DecidableEq, Repr

/-- A field's value in a command word, its low bit at `lo`. -/
def place {width : Nat} (v : BitVec width) (lo : Nat) : CmdWord := v.setWidth 64 <<< lo

/-- Format I (R81); bits 31 to 10 are 0. -/
def encodeInit (chsel : BitVec 8) (clkper : Word) : CmdWord :=
  place 1#2 0 ||| place chsel 2 ||| place clkper 32

/-- Format T (R82) with operation code `op`; bits 63 to 56 are 0. -/
def encodeTransaction (op handle iasz : BitVec 2) (sadr : BitVec 10) (len : BitVec 16)
    (iaddr : BitVec 24) : CmdWord :=
  place op 0 ||| place handle 2 ||| place iasz 4 ||| place sadr 6 ||| place len 16 ||| place iaddr 32

/-- The word of an instruction; `WAIT_FOR` has none (R95). -/
def encode : Instr → Option Encoded
  | .init chsel clkper => some (.command (encodeInit chsel clkper))
  | .masterWrite handle iasz sadr len iaddr =>
    some (.command (encodeTransaction 2 handle iasz sadr len iaddr))
  | .masterRead handle iasz sadr len iaddr =>
    some (.command (encodeTransaction 3 handle iasz sadr len iaddr))
  | .waitFor _ => none
  | .crStart => some (.cr crStartWord)
  | .crStop => some (.cr crStopWord)
  | .crStartStop => some (.cr crStartStopWord)
  | .crMsen => some (.cr crMsenWord)
  | .crMsdis => some (.cr crMsdisWord)

/-- Decode either kind of word. -/
def decode : Encoded → Except DecodeError Instr
  | .command w => decodeCommand w
  | .cr w => decodeCr w

/-- The instruction of a decoder's answer. -/
def decoded : Except DecodeError Instr → Option Instr
  | .ok i => some i
  | .error _ => none

/-- The decoder over words numbered as spec/opcode_table.json numbers them: 64-bit words are command
words, 32-bit words CR words (R80, R88, R95). `WAIT_FOR`, the row of no bits, has no encoding. -/
def decodeTableWord (nbits w : Nat) : Option Instr :=
  if nbits = 64 then decoded (decodeCommand (BitVec.ofNat 64 w))
  else if nbits = 32 then decoded (decodeCr (BitVec.ofNat 32 w))
  else none

end Sys2Proof
end

