-- ==== Sys2Proof/Machine/State.lean ====
section
/-! DEFINITION. The architectural state of 10_state.md, as plain data, and its reset value (R42). -/

namespace Sys2Proof.Machine

/-- The sequencer phases of R23. -/
inductive Phase where
  | idle
  | iClk | iCwgr
  | wMmr | wIadr | wMsen | wStart | wBuf | wThr | wLstop | wPoll | wDelay | wFstop
  | rMmr | rIadr | rStart | rPoll | rDelay | rRhr | rBuf | rLstop | rFstop
  | rsp
  deriving DecidableEq, Repr

/-- The seven registers of a channel's block (R27, R86). -/
inductive Reg where
  | cr | mmr | iadr | cwgr | sr | rhr | thr
  deriving DecidableEq, Repr

/-- The events of the trace (R40). -/
inductive Event where
  /-- `Cmd(word)` -/
  | cmd (word : CmdWord)
  /-- `ClkEn(p)` -/
  | clkEn (p : BitVec 8)
  /-- `W REG<-v` on channel `c` -/
  | regWrite (c : Channel) (r : Reg) (v : Word)
  /-- `R REG->v` on channel `c` -/
  | regRead (c : Channel) (r : Reg) (v : Word)
  /-- `BufRd[k]->b` -/
  | bufRead (k : Nat) (b : Byte)
  /-- `BufWr[k]<-b` -/
  | bufWrite (k : Nat) (b : Byte)
  /-- `D`, an interval of `t` microseconds -/
  | delay (t : Nat)
  /-- `Rsp(w)` -/
  | rsp (w : Word)
  deriving DecidableEq, Repr

/-- One slot of the Channel Registry (R21). -/
structure Slot where
  initDone : Bool
  cwgrCfg : Word
  deriving DecidableEq, Repr

/-- The registers of one block that take the value written (R55): MMR, IADR, CWGR, and in THR the word
last handed to the serial engine. CR "stores nothing the block can observe" (R29); SR and RHR are
answered by the oracle (R61). -/
structure RegBlock where
  mmr : Word
  iadr : Word
  cwgr : Word
  thr : Word
  deriving DecidableEq, Repr

/-- What the block knows of a channel's peripheral clock gate (R38). -/
inductive Gate where
  | unknown
  | enabled
  deriving DecidableEq, Repr

/-- Buffer memory: the bytes the host lends, by index (R39, R50), indices strictly rising. An index
that is not listed holds no byte the model knows (log entry 3). -/
abbrev Memory := List Host.Cell

/-- A command the host presents, with the buffer it lends for it (R26, R39). -/
structure PortCommand where
  word : CmdWord
  lent : Memory
  deriving DecidableEq, Repr

/-- The state (R20). -/
structure State where
  /-- R22 `op` -/
  op : BitVec 2
  /-- R22 `c` -/
  c : Channel
  /-- R22 `per` -/
  per : Word
  /-- R22 `sadr` -/
  sadr : BitVec 10
  /-- R22 `iasz` -/
  iasz : BitVec 2
  /-- R22 `iaddr` -/
  iaddr : BitVec 24
  /-- R22 `len` -/
  len : BitVec 16
  /-- R22 `rd` -/
  rd : BitVec 1
  /-- R23 -/
  phase : Phase
  /-- R24 `i` -/
  i : BitVec 16
  /-- R24 `n` -/
  n : BitVec 7
  /-- R24 `b` -/
  b : Byte
  /-- R24 `result` -/
  result : Word
  /-- R21 `slot[0]` -/
  slot0 : Slot
  /-- R21 `slot[1]` -/
  slot1 : Slot
  /-- Registers of channel 0 (R27) -/
  blk0 : RegBlock
  /-- Registers of channel 1 (R27) -/
  blk1 : RegBlock
  /-- Clock gate of channel 0 (R38) -/
  gate0 : Gate
  /-- Clock gate of channel 1 (R38) -/
  gate1 : Gate
  /-- The host's data buffer (R39) -/
  buffer : Memory
  /-- Commands presented and not yet accepted (R26, R41) -/
  port : List PortCommand
  /-- The oracle's script for SR (R61); when it is used up the answers are free -/
  srAnswers : List Word
  /-- The oracle's script for RHR (R61); when it is used up the answers are free -/
  rhrAnswers : List Word
  /-- Free values drawn so far (the model's own; log entry 22) -/
  draws : Nat
  /-- The trace, oldest event first (R40) -/
  trace : List Event
  deriving DecidableEq, Repr

/-- What stops the machine with no rule broken by the command itself. -/
inductive Fault where
  /-- Raised by a phase whose position R25 has no row for: in the byte loop with `i` not below `len`,
  or at a poll with `n` already at `POLL_MAX`. No reachable state is one (R43). Safe: log entry 10. -/
  | positionOutsideTable
  deriving DecidableEq, Repr

/-- What the model refuses. -/
inductive Refusal where
  /-- Raised only in `exec` for an instruction with no meaning yet. Safe. -/
  | notModelled (mnemonic : String)
  /-- Raised by `step` for a command word with no meaning (R96, U4). Safe. -/
  | illegalCommand (why : DecodeError)
  /-- Raised by a transaction with `LEN = 0` (R26, R96, U4). Safe. -/
  | zeroLength
  /-- Raised by a transaction whose `HANDLE` is 0 or 3 (R26, R96, U4). Safe. -/
  | invalidHandle
  /-- Raised by a transaction on a slot never initialised (R26, R96, U1). Safe. -/
  | uninitialisedHandle
  /-- Raised by `CR.MSDIS`, which no rule gives an effect and the block never writes (R156, U15).
  Safe: log entry 9. -/
  | masterDisableNeverWritten
  deriving DecidableEq, Repr

/-- The three outcomes of a step of this machine. -/
abbrev Result := Host.Outcome State Fault Refusal

/-- A slot never initialised. `cwgr_cfg` "holds no value" (R42): 0 is a DESIGN CHOICE, log entry 5. -/
def Slot.reset : Slot := { initDone := false, cwgrCfg := 0 }

/-- Registers R42 leaves unspecified: 0 is a DESIGN CHOICE, unsafe, log entry 6. -/
def RegBlock.reset : RegBlock := { mmr := 0, iadr := 0, cwgr := 0, thr := 0 }

/-- The machine right after reset (R42, R190, R192). Latches and counters hold no value in R42: 0 is a
DESIGN CHOICE, unsafe, log entry 5. Nothing is presented, lent or scripted (log entries 2, 3, 4). -/
def State.reset : State where
  op := 0
  c := 0
  per := 0
  sadr := 0
  iasz := 0
  iaddr := 0
  len := 0
  rd := 0
  phase := .idle
  i := 0
  n := 0
  b := 0
  result := 0
  slot0 := .reset
  slot1 := .reset
  blk0 := .reset
  blk1 := .reset
  gate0 := .unknown
  gate1 := .unknown
  buffer := []
  port := []
  srAnswers := []
  rhrAnswers := []
  draws := 0
  trace := []

end Sys2Proof.Machine
end

