-- ==== Sys2Proof/Machine/Flags.lean ====
section
/-! DEFINITION. The three status flags of SR and the tests the poller makes on one sampled value
(10_state.md R33, 30_encoding.md R89, 41_poller.md R121, R123). -/

namespace Sys2Proof.Machine

/-- The mask of NACK (R89). -/
def nackMask : Word := 0x00000100

/-- The mask of a ready bit: TXRDY or RXRDY (R89, R120). -/
def readyMask : ReadyBit → Word
  | .txrdy => 0x00000004
  | .rxrdy => 0x00000002

/-- NACK is set in `sr` (R121: `(sr & NACK) != 0`). -/
def nackSet (sr : Word) : Bool := sr &&& nackMask ≠ 0

/-- The requested ready bit is set in `sr` (R121: `(sr & ready_bit) != 0`). -/
def readySet (ready : ReadyBit) (sr : Word) : Bool := sr &&& readyMask ready ≠ 0

/-- What a wait returns (R120). -/
inductive WaitResult where
  | ok
  | noAck
  | timeout
  deriving DecidableEq, Repr

/-- What one poll decides, `polls` being the number of polls made with it: NACK first, then ready, then
the budget (R123); `none` when the wait goes on. -/
def pollVerdict (ready : ReadyBit) (sr : Word) (polls : Nat) : Option WaitResult :=
  if nackSet sr then some .noAck
  else if readySet ready sr then some .ok
  else if polls = Config.pollMax then some .timeout
  else none

end Sys2Proof.Machine
end

