-- ==== Sys2Proof/Machine/Operands.lean ====
section
/-! DEFINITION. Operand forms: how the fields of a command become latches, handles, the words written
to registers and the register addresses (30_encoding.md R83 to R94, 20_memory.md R51, R52). -/

namespace Sys2Proof.Machine

/-- `CHSEL` is 0 or 1 (R81, R111). -/
def selectorValid (chsel : BitVec 8) : Bool := chsel = 0 || chsel = 1

/-- `c` of an `INIT` (R83: `cmd[2]`, the low bit of `CHSEL`). -/
def channelOfSelector (chsel : BitVec 8) : Channel := chsel.setWidth 1

/-- `c` of a transaction (R83: `cmd[3:2] - 1`). -/
def channelOfHandle (handle : BitVec 2) : Channel := (handle - 1).setWidth 1

/-- The handle that names a channel (R85): 1 or 2. -/
def handleOf (c : Channel) : BitVec 2 := c.setWidth 2 + 1

/-- The response of a successful `INIT` (R84, R111): `zext_32(c + 1)`. -/
def handleWord (c : Channel) : Word := (handleOf c).setWidth 32

/-- The selector of a channel. -/
def selectorOf (c : Channel) : BitVec 8 := c.setWidth 8

/-- `mmr_word(sadr, iasz, rd)` (R94). -/
def mmrWord (sadr : BitVec 10) (iasz : BitVec 2) (rd : BitVec 1) : Word :=
  (sadr.setWidth 32 <<< 16) ||| (iasz.setWidth 32 <<< 8) ||| (rd.setWidth 32 <<< 12)

/-- The word written to IADR, `zext_32(iaddr)` (R90, R131). -/
def iadrWord (iaddr : BitVec 24) : Word := iaddr.setWidth 32

/-- The word written to THR, `zext_32(b)` (R32, R91). -/
def thrWord (b : Byte) : Word := b.setWidth 32

/-- The byte kept of an RHR answer, bits 7 to 0 (R92, R148). -/
def rhrByte (v : Word) : Byte := v.setWidth 8

/-- The response of a completed transaction, the count `len` (R84). -/
def countWord (len : BitVec 16) : Word := len.setWidth 32

/-- `OFF(REG)` (R86). -/
def Reg.offset : Reg → Word
  | .cr => 0x00
  | .mmr => 0x04
  | .iadr => 0x0C
  | .cwgr => 0x10
  | .sr => 0x20
  | .rhr => 0x30
  | .thr => 0x34

/-- The address of a register, `BASE[c] + OFF(REG)` (R11, R51, R52). Accesses in the machine are keyed
by channel and name, which R12 and R52 allow. -/
def regAddress (c : Channel) (r : Reg) : Word := Config.base c + r.offset

end Sys2Proof.Machine
end

