-- ==== Sys2Proof/Machine/Ops.lean ====
section
/-! DEFINITION. The event primitives of 00_scope.md R11 and 20_memory.md R55 to R60, the registry and
latch updates of 10_state.md, the rows both transactions share (the poll, the end of a wait, the fault
entry of 60_exceptions.md R171, the response), command acceptance and fetching. -/

namespace Sys2Proof.Machine

/-! ### The host buffer (R39, R57, R58) -/

/-- The canonical form: indices strictly rising. -/
def Memory.wf : Memory → Bool
  | [] => true
  | [_] => true
  | (k, _) :: (l, y) :: rest => k < l && Memory.wf ((l, y) :: rest)

/-- The byte listed at index `k`; `none` where the host lent none. -/
def Memory.read : Memory → Nat → Option Byte
  | [], _ => none
  | (l, x) :: rest, k => if l = k then some x else Memory.read rest k

/-- The memory with byte `x` at index `k`. -/
def Memory.write : Memory → Nat → Byte → Memory
  | [], k, x => [(k, x)]
  | (l, y) :: rest, k, x =>
    if k < l then (k, x) :: (l, y) :: rest
    else if k = l then (k, x) :: rest
    else (l, y) :: Memory.write rest k x

/-! ### Elementary updates -/

/-- Append one event to the trace (R40). -/
def State.emit (s : State) (e : Event) : State := { s with trace := s.trace ++ [e] }

/-- `phase <- p` (R11). -/
def State.goto (s : State) (p : Phase) : State := { s with phase := p }

/-- `slot[c]` (R21). -/
def State.slot (s : State) (c : Channel) : Slot := if c = 0 then s.slot0 else s.slot1

/-- Write `slot[c]`. -/
def State.setSlot (s : State) (c : Channel) (v : Slot) : State :=
  if c = 0 then { s with slot0 := v } else { s with slot1 := v }

/-- The registers of channel `c` (R27). -/
def State.blk (s : State) (c : Channel) : RegBlock := if c = 0 then s.blk0 else s.blk1

/-- Write the registers of channel `c`. -/
def State.setBlk (s : State) (c : Channel) (v : RegBlock) : State :=
  if c = 0 then { s with blk0 := v } else { s with blk1 := v }

/-- The clock gate of channel `c` (R38). -/
def State.gate (s : State) (c : Channel) : Gate := if c = 0 then s.gate0 else s.gate1

/-- Enable the clock gate of channel `c`. -/
def State.enableGate (s : State) (c : Channel) : State :=
  if c = 0 then { s with gate0 := .enabled } else { s with gate1 := .enabled }

/-! ### Primitives, one event each (R11) -/

/-- A register block after a write of `v` to `r` (R55): MMR, IADR, CWGR and THR take the value; CR
delivers a command and stores nothing (R29); SR and RHR are never written (R36). -/
def RegBlock.write (k : RegBlock) (r : Reg) (v : Word) : RegBlock :=
  match r with
  | .mmr => { k with mmr := v }
  | .iadr => { k with iadr := v }
  | .cwgr => { k with cwgr := v }
  | .thr => { k with thr := v }
  | .cr => k
  | .sr => k
  | .rhr => k

/-- `RegWrite(c, REG, v)` (R55). It never fails and never stalls. -/
def State.regWrite (s : State) (c : Channel) (r : Reg) (v : Word) : State :=
  (s.setBlk c ((s.blk c).write r v)).emit (.regWrite c r v)

/-- The oracle's answer to the next SR read (R61): the script's next word, or a free value (U10). -/
def State.srAnswer (s : State) : Word :=
  match s.srAnswers with
  | v :: _ => v
  | [] => Config.freeWord s.draws

/-- The oracle's answer to the next RHR read (R61). -/
def State.rhrAnswer (s : State) : Word :=
  match s.rhrAnswers with
  | v :: _ => v
  | [] => Config.freeWord s.draws

/-- The state after `RegRead(c, SR)` (R56): the answer is used up, from the script or from the free
values, so that the next read is a fresh one (R62). -/
def State.readSr (s : State) (c : Channel) : State :=
  { s with
    srAnswers := s.srAnswers.tail
    draws := if s.srAnswers.isEmpty then s.draws + 1 else s.draws }.emit (.regRead c .sr s.srAnswer)

/-- The state after `RegRead(c, RHR)` (R56, R62). -/
def State.readRhr (s : State) (c : Channel) : State :=
  { s with
    rhrAnswers := s.rhrAnswers.tail
    draws := if s.rhrAnswers.isEmpty then s.draws + 1 else s.draws }.emit (.regRead c .rhr s.rhrAnswer)

/-- The byte `BufRead(k)` returns (R57); where the host lent none it is a free value (U7). -/
def State.bufByte (s : State) (k : Nat) : Byte :=
  match s.buffer.read k with
  | some x => x
  | none => Config.freeByte s.draws

/-- The state after `BufRead(k)` (R57): the buffer is unchanged; a free value is drawn once. -/
def State.bufRead (s : State) (k : Nat) : State :=
  { s with draws := if (s.buffer.read k).isNone then s.draws + 1 else s.draws }.emit
    (.bufRead k (s.bufByte k))

/-- `BufWrite(k, x)` (R58). -/
def State.bufWrite (s : State) (k : Nat) (x : Byte) : State :=
  { s with buffer := s.buffer.write k x }.emit (.bufWrite k x)

/-- `ClockEnable(PID[c])` (R59, R181). -/
def State.clockEnable (s : State) (c : Channel) : State :=
  (s.enableGate c).emit (.clkEn (Config.pid c))

/-- `Delay(POLL_DELAY)` (R60): an event and no change of state. -/
def State.delay (s : State) : State := s.emit (.delay Config.pollDelay)

/-- `Respond(result)` (R11, R23 `RSP`): the response word goes out and the block is idle again. -/
def State.respond (s : State) : State := (s.emit (.rsp s.result)).goto .idle

/-! ### Acceptance (R25 rows `IDLE`, R26) -/

/-- Take the command at the head of the port: it is sampled once (R66), its event is recorded, and a
transaction (`OP` 2 or 3) takes the buffer the host lends for it (R39, log entry 21). -/
def State.accept (s : State) (cmd : PortCommand) (rest : List PortCommand) : State :=
  { s with
    port := rest
    buffer := if field cmd.word 1 1 = 1 then cmd.lent else s.buffer }.emit (.cmd cmd.word)

/-- Why a transaction is not admitted, if it is not (R26, R96). -/
def State.admission (s : State) (handle : BitVec 2) (len : BitVec 16) : Option Refusal :=
  if len = 0 then some .zeroLength
  else if handle = 0 ∨ handle = 3 then some .invalidHandle
  else if (s.slot (channelOfHandle handle)).initDone then none
  else some .uninitialisedHandle

/-- Latch an accepted `INIT` with a valid selector (R22, R25, R83). -/
def State.latchInit (s : State) (chsel : BitVec 8) (clkper : Word) : State :=
  { s with op := 1, c := channelOfSelector chsel, per := clkper }

/-- Latch an admitted transaction (R22, R25, R83); `rd` is the low bit of `op` (R83). `i` is in the range
R43 gives it in every phase of a transaction from here on (DESIGN CHOICE, log entry 11). -/
def State.latchTransaction (s : State) (op handle iasz : BitVec 2) (sadr : BitVec 10)
    (len : BitVec 16) (iaddr : BitVec 24) : State :=
  { s with
    op := op
    c := channelOfHandle handle
    sadr := sadr
    iasz := iasz
    iaddr := iaddr
    len := len
    rd := op.setWidth 1
    i := 0 }

/-- Present a command word with no buffer at the head of the port of an idle block. -/
def State.placeCommand (s : State) (w : CmdWord) : State :=
  { s with phase := .idle, port := { word := w, lent := [] } :: s.port }

/-- Put the Sequencer at a phase whose next event is the write of `w` to CR (R158 and its neighbours).
No phase writes any other word (R160): the state is then unchanged. -/
def State.placeCrWord (s : State) (w : Word) : State :=
  if w = crStartWord then { s with phase := .wStart }
  else if w = crStopWord then { s with phase := .wLstop }
  else if w = crStartStopWord then { s with phase := .rStart, len := 2 }
  else if w = crMsenWord then { s with phase := .wMsen }
  else s

/-! ### The instruction a busy block is running -/

/-- The command in progress, read back from the latches (R22): the phase says which one it is, in `RSP`
the latched `op` does (R43). -/
def State.running (s : State) : Instr :=
  match s.phase with
  | .iClk | .iCwgr => .init (selectorOf s.c) s.per
  | .wMmr | .wIadr | .wMsen | .wStart | .wBuf | .wThr | .wLstop | .wPoll | .wDelay | .wFstop =>
    .masterWrite (handleOf s.c) s.iasz s.sadr s.len s.iaddr
  | .rMmr | .rIadr | .rStart | .rPoll | .rDelay | .rRhr | .rBuf | .rLstop | .rFstop =>
    .masterRead (handleOf s.c) s.iasz s.sadr s.len s.iaddr
  | .idle | .rsp =>
    if s.op = 2 then .masterWrite (handleOf s.c) s.iasz s.sadr s.len s.iaddr
    else if s.op = 3 then .masterRead (handleOf s.c) s.iasz s.sadr s.len s.iaddr
    else .init (selectorOf s.c) s.per

/-! ### The byte loop and the wait (R25) -/

/-- `i = len - 1`: the byte in hand is the last. -/
def State.lastByte (s : State) : Bool := s.i.toNat + 1 = s.len.toNat

/-- `i < len - 1`: another byte follows. -/
def State.moreBytes (s : State) : Bool := s.i.toNat + 1 < s.len.toNat

/-- The phase in which a wait polls (R23). -/
def pollPhase : ReadyBit → Phase
  | .txrdy => .wPoll
  | .rxrdy => .rPoll

/-- The phase in which a wait delays (R23). -/
def delayPhase : ReadyBit → Phase
  | .txrdy => .wDelay
  | .rxrdy => .rDelay

/-- The phase of the forced STOP of the transaction that waits (R23). -/
def forcedStopPhase : ReadyBit → Phase
  | .txrdy => .wFstop
  | .rxrdy => .rFstop

/-- Call `WAIT_FOR` (R121): `n <- 0`, and the next event is the first poll. -/
def State.enterWait (s : State) (ready : ReadyBit) : State :=
  { s with n := 0 }.goto (pollPhase ready)

/-- Fault entry, first half (R171): the fault's code is the result and the next event is the forced
STOP. -/
def State.raiseFault (s : State) (ready : ReadyBit) (code : Word) : State :=
  { s with result := code }.goto (forcedStopPhase ready)

/-- What the transaction does when its wait returns (R25 rows `W_POLL` and `R_POLL`). -/
def State.waitReturns (s : State) (ready : ReadyBit) : WaitResult → Result
  | .noAck => .next (s.raiseFault ready Config.eNoAck)
  | .timeout => .next (s.raiseFault ready Config.eTimeout)
  | .ok =>
    match ready with
    | .txrdy =>
      if s.lastByte then .next ({ s with result := countWord s.len }.goto .rsp)
      else if s.moreBytes then .next ({ s with i := s.i + 1 }.goto .wBuf)
      else .fault .positionOutsideTable
    | .rxrdy => .next (s.goto .rRhr)

/-- One poll (R121, R122): one read of SR, one more poll counted. -/
def State.poll (s : State) : State := { s.readSr s.c with n := s.n + 1 }

/-- The poll row (R25 rows `W_POLL` and `R_POLL`): one poll, then NACK, ready and budget are tested on
the value it returned. -/
def State.pollRow (s : State) (ready : ReadyBit) : Result :=
  if Config.pollMax ≤ s.n.toNat then .fault .positionOutsideTable
  else
    match pollVerdict ready s.srAnswer (s.n.toNat + 1) with
    | some r => s.poll.waitReturns ready r
    | none => .next (s.poll.goto (delayPhase ready))

/-- The delay row (R25 rows `W_DELAY` and `R_DELAY`). -/
def State.delayRow (s : State) (ready : ReadyBit) : State := s.delay.goto (pollPhase ready)

/-- Go on with an outcome's next state. -/
def andThen (o : Result) (f : State → State) : Result :=
  match o with
  | .next s => .next (f s)
  | .fault r => .fault r
  | .refused r => .refused r

end Sys2Proof.Machine
end

