-- ==== Sys2Proof/Machine/Control.lean ====
section
/-! DEFINITION. The control-register command words (44_register_commands.md): each is one write of CR on
the latched channel. It has no effect on the block's own state but the event; the phase change that
goes with it is the row of the transaction that writes it. -/

namespace Sys2Proof.Machine

/-- `CR.START` (R157). -/
def execCrStart (s : State) : Result := .next (s.regWrite s.c .cr crStartWord)

/-- `CR.STOP` (R158). -/
def execCrStop (s : State) : Result := .next (s.regWrite s.c .cr crStopWord)

/-- `CR.START_STOP` (R159). -/
def execCrStartStop (s : State) : Result := .next (s.regWrite s.c .cr crStartStopWord)

/-- `CR.MSEN` (R155). -/
def execCrMsen (s : State) : Result := .next (s.regWrite s.c .cr crMsenWord)

/-- `CR.MSDIS` (R156): nothing writes it and no effect of it is given; a decoder of the CR port that
meets it refuses (U15, log entry 9). -/
def execCrMsdis (_ : State) : Result := .refused .masterDisableNeverWritten

end Sys2Proof.Machine
end

