-- ==== Sys2Proof/Machine/Poller.lean ====
section
/-! DEFINITION. The Acknowledgment Poller (41_poller.md). -/

namespace Sys2Proof.Machine

/-- `WAIT_FOR` (R121), its next event: in its poll phase one poll, in its delay phase the delay, and
anywhere else the call itself, `n <- 0` (log entry 17). -/
def execWaitFor (ready : ReadyBit) (s : State) : Result :=
  if s.phase = pollPhase ready then s.pollRow ready
  else if s.phase = delayPhase ready then .next (s.delayRow ready)
  else .next (s.enterWait ready)

end Sys2Proof.Machine
end

