-- ==== Sys2Proof/Machine/MasterRead.lean ====
section
/-! DEFINITION. The master read transaction (43_master_read.md). -/

namespace Sys2Proof.Machine

/-- `MASTER_READ` (R140), its next event (R25). The operands are used at acceptance only: from then on
the latches hold them (R22, R66). While another command runs it is held (R26, log entry 18). -/
def execMasterRead (handle iasz : BitVec 2) (sadr : BitVec 10) (len : BitVec 16) (iaddr : BitVec 24)
    (s : State) : Result :=
  match s.phase with
  | .idle =>
    match s.admission handle len with
    | some why => .refused why
    | none => .next ((s.latchTransaction 3 handle iasz sadr len iaddr).goto .rMmr)
  | .rMmr => .next ((s.regWrite s.c .mmr (mmrWord s.sadr s.iasz s.rd)).goto .rIadr)
  | .rIadr => .next ((s.regWrite s.c .iadr (iadrWord s.iaddr)).goto .rStart)
  | .rStart =>
    andThen (if s.len = 1 then execCrStart s else execCrStartStop s) fun t =>
      { t with i := 0 }.enterWait .rxrdy
  | .rPoll => execWaitFor .rxrdy s
  | .rDelay => execWaitFor .rxrdy s
  | .rRhr => .next ({ s.readRhr s.c with b := rhrByte s.rhrAnswer }.goto .rBuf)
  | .rBuf =>
    if s.moreBytes then
      .next ({ s.bufWrite s.i.toNat s.b with i := s.i + 1 }.enterWait .rxrdy)
    else if s.lastByte then
      if s.len = 1 then .next ({ s.bufWrite s.i.toNat s.b with result := 1 }.goto .rsp)
      else .next ((s.bufWrite s.i.toNat s.b).goto .rLstop)
    else .fault .positionOutsideTable
  | .rLstop => andThen (execCrStop s) fun t => { t with result := countWord t.len }.goto .rsp
  | .rFstop => andThen (execCrStop s) fun t => t.goto .rsp
  | .rsp => .next s.respond
  | _ => .next s

end Sys2Proof.Machine
end

