-- ==== Sys2Proof/Machine/MasterWrite.lean ====
section
/-! DEFINITION. The master write transaction (42_master_write.md). -/

namespace Sys2Proof.Machine

/-- `MASTER_WRITE` (R130), its next event (R25). The operands are used at acceptance only: from then on
the latches hold them (R22, R66). While another command runs it is held (R26, log entry 18). -/
def execMasterWrite (handle iasz : BitVec 2) (sadr : BitVec 10) (len : BitVec 16) (iaddr : BitVec 24)
    (s : State) : Result :=
  match s.phase with
  | .idle =>
    match s.admission handle len with
    | some why => .refused why
    | none => .next ((s.latchTransaction 2 handle iasz sadr len iaddr).goto .wMmr)
  | .wMmr => .next ((s.regWrite s.c .mmr (mmrWord s.sadr s.iasz s.rd)).goto .wIadr)
  | .wIadr => .next ((s.regWrite s.c .iadr (iadrWord s.iaddr)).goto .wMsen)
  | .wMsen => andThen (execCrMsen s) fun t => t.goto .wStart
  | .wStart => andThen (execCrStart s) fun t => { t with i := 0 }.goto .wBuf
  | .wBuf =>
    if s.i.toNat < s.len.toNat then
      .next ({ s.bufRead s.i.toNat with b := s.bufByte s.i.toNat }.goto .wThr)
    else .fault .positionOutsideTable
  | .wThr =>
    if s.lastByte then .next ((s.regWrite s.c .thr (thrWord s.b)).goto .wLstop)
    else if s.moreBytes then .next ((s.regWrite s.c .thr (thrWord s.b)).enterWait .txrdy)
    else .fault .positionOutsideTable
  | .wLstop => andThen (execCrStop s) fun t => t.enterWait .txrdy
  | .wPoll => execWaitFor .txrdy s
  | .wDelay => execWaitFor .txrdy s
  | .wFstop => andThen (execCrStop s) fun t => t.goto .rsp
  | .rsp => .next s.respond
  | _ => .next s

end Sys2Proof.Machine
end

