-- ==== Sys2Proof/Machine/Registry.lean ====
section
/-! DEFINITION. The Channel Registry (40_init.md). -/

namespace Sys2Proof.Machine

/-- `INIT` (R111), its next event (R25). While another command runs it is held (R26, log entry 18). -/
def execInit (chsel : BitVec 8) (clkper : Word) (s : State) : Result :=
  match s.phase with
  | .idle =>
    if selectorValid chsel then .next ((s.latchInit chsel clkper).goto .iClk)
    else .next ({ s with op := 1, result := 0 }.goto .rsp)
  | .iClk => .next ((s.clockEnable s.c).goto .iCwgr)
  | .iCwgr =>
    .next ({ (s.regWrite s.c .cwgr s.per).setSlot s.c { initDone := true, cwgrCfg := s.per } with
      result := handleWord s.c }.goto .rsp)
  | .rsp => .next s.respond
  | _ => .next s

end Sys2Proof.Machine
end

