-- ==== Sys2Proof/Machine/Dispatch.lean ====
section
/-! DEFINITION. One arm per instruction. -/

namespace Sys2Proof.Machine

def exec (i : Instr) (s : State) : Host.Outcome State Fault Refusal :=
  match i with
  | .init chsel clkper => Sys2Proof.Machine.execInit chsel clkper s
  | .masterWrite handle iasz sadr len iaddr => Sys2Proof.Machine.execMasterWrite handle iasz sadr len iaddr s
  | .masterRead handle iasz sadr len iaddr => Sys2Proof.Machine.execMasterRead handle iasz sadr len iaddr s
  | .waitFor ready => Sys2Proof.Machine.execWaitFor ready s
  | .crStart => Sys2Proof.Machine.execCrStart s
  | .crStop => Sys2Proof.Machine.execCrStop s
  | .crStartStop => Sys2Proof.Machine.execCrStartStop s
  | .crMsen => Sys2Proof.Machine.execCrMsen s
  | .crMsdis => Sys2Proof.Machine.execCrMsdis s

end Sys2Proof.Machine
end

