-- ==== Sys2Proof/Machine/Step.lean ====
section
/-! DEFINITION. One step of the Sequencer: one row of 10_state.md R25. -/

namespace Sys2Proof.Machine

/-- One step (R25). In `IDLE` the block takes the command at the head of the port (R26) and runs its
acceptance row; with nothing presented it stays idle (log entry 4). In every other phase it performs the
next event of the command in progress. -/
def step (s : State) : Host.Outcome State Fault Refusal :=
  match s.phase with
  | .idle =>
    match s.port with
    | [] => .next s
    | cmd :: rest =>
      match decodeCommand cmd.word with
      | .ok i => exec i (s.accept cmd rest)
      | .error why => .refused (.illegalCommand why)
  | _ => exec s.running s

/-- `s` with the instruction of these bits placed where the next step takes it: a command word at the
head of the port, a CR word as the next event of a phase that writes it (log entry 15). -/
def State.withFetchWord (s : State) (nbits w : Nat) : State :=
  if nbits = 64 then s.placeCommand (BitVec.ofNat 64 w)
  else if nbits = 32 then s.placeCrWord (BitVec.ofNat 32 w)
  else s

end Sys2Proof.Machine
end

