-- ==== Sys2Proof/Machine/Pseudocode.lean ====
section
/-! DEFINITION. The pseudocode of the instruction rules R121, R130 and R140, each as one
function that runs its instruction whole. The rows of 10_state.md R25, which `step` takes one at a time,
are the small-step form of it and the pseudocode governs (R25): that the two agree is an obligation.
Nothing in `step` calls this file. -/

namespace Sys2Proof.Machine

/-- The loop of `WAIT_FOR` (R121) with at most `fuel` polls to go. -/
def waitLoop (ready : ReadyBit) : Nat → State → State × WaitResult
  | 0, s => (s, .timeout)
  | fuel + 1, s =>
    if s.srAnswer &&& nackMask ≠ 0 then (s.poll, .noAck)
    else if s.srAnswer &&& readyMask ready ≠ 0 then (s.poll, .ok)
    else if s.poll.n.toNat = Config.pollMax then (s.poll, .timeout)
    else waitLoop ready fuel s.poll.delay

/-- `WAIT_FOR(c, ready_bit)` on the latched channel (R121): the state after it and what it returns. -/
def waitWhole (ready : ReadyBit) (s : State) : State × WaitResult :=
  waitLoop ready Config.pollMax { s with n := 0 }

/-- The last lines of a failed iteration (R130 step 3d, R140 step 3a, R171): the forced STOP and the
fault's response. -/
def State.failWith (s : State) (code : Word) : State :=
  { s.regWrite s.c .cr crStopWord with result := code }.respond

/-- One iteration of the byte loop of R130, up to the return of its wait. -/
def State.writeByte (s : State) : State × WaitResult :=
  let t := { s.bufRead s.i.toNat with b := s.bufByte s.i.toNat }
  let u := t.regWrite t.c .thr (thrWord t.b)
  waitWhole .txrdy (if u.i = u.len - 1 then u.regWrite u.c .cr crStopWord else u)

/-- The byte loop of R130 with `more` bytes after this one, and the response. -/
def writeLoop : Nat → State → State
  | 0, s =>
    match s.writeByte with
    | (t, .ok) => { t with result := countWord t.len }.respond
    | (t, .noAck) => t.failWith Config.eNoAck
    | (t, .timeout) => t.failWith Config.eTimeout
  | more + 1, s =>
    match s.writeByte with
    | (t, .ok) => writeLoop more { t with i := t.i + 1 }
    | (t, .noAck) => t.failWith Config.eNoAck
    | (t, .timeout) => t.failWith Config.eTimeout

/-- `MASTER_WRITE` (R130) from the latched descriptor on. -/
def writeWhole (s : State) : State :=
  let t := s.regWrite s.c .mmr (mmrWord s.sadr s.iasz 0)
  let u := t.regWrite t.c .iadr (iadrWord t.iaddr)
  let v := u.regWrite u.c .cr crMsenWord
  let w := v.regWrite v.c .cr crStartWord
  writeLoop (w.len.toNat - 1) { w with i := 0 }

/-- The step 3b of R140: the received byte goes from RHR into the buffer. -/
def State.readByte (s : State) : State :=
  let t := { s.readRhr s.c with b := rhrByte s.rhrAnswer }
  t.bufWrite t.i.toNat t.b

/-- The byte loop of R140 with `more` bytes after this one, and the response. -/
def readLoop : Nat → State → State
  | 0, s =>
    match waitWhole .rxrdy s with
    | (t, .ok) =>
      let u := t.readByte
      let v := if 1 < u.len.toNat then u.regWrite u.c .cr crStopWord else u
      { v with result := countWord v.len }.respond
    | (t, .noAck) => t.failWith Config.eNoAck
    | (t, .timeout) => t.failWith Config.eTimeout
  | more + 1, s =>
    match waitWhole .rxrdy s with
    | (t, .ok) =>
      let u := t.readByte
      readLoop more { u with i := u.i + 1 }
    | (t, .noAck) => t.failWith Config.eNoAck
    | (t, .timeout) => t.failWith Config.eTimeout

/-- `MASTER_READ` (R140) from the latched descriptor on. -/
def readWhole (s : State) : State :=
  let t := s.regWrite s.c .mmr (mmrWord s.sadr s.iasz 1)
  let u := t.regWrite t.c .iadr (iadrWord t.iaddr)
  let v := u.regWrite u.c .cr (if u.len = 1 then crStartWord else crStartStopWord)
  readLoop (v.len.toNat - 1) { v with i := 0 }

end Sys2Proof.Machine
end

