-- ==== Sys2Proof/Safety.lean ====
section
/-! DEFINITION. What a safe state and a legal trace are, in the terms claims use: the invariants of
10_state.md R43, the launch premises of 70_reset_and_hazards.md R194, the events the
block may perform (R36, R160, R97), the framing of a fault (R162), and counts over traces. -/

namespace Sys2Proof.Machine

/-! ### Reading a trace -/

/-- The words written to CR, in order (R161). -/
def crWords : List Event → List Word
  | [] => []
  | .regWrite _ .cr v :: rest => v :: crWords rest
  | _ :: rest => crWords rest

/-- The bytes handed to THR, in order. -/
def thrWords : List Event → List Word
  | [] => []
  | .regWrite _ .thr v :: rest => v :: thrWords rest
  | _ :: rest => thrWords rest

/-- The values reads of SR returned, in order: one per poll (R122). -/
def srWords : List Event → List Word
  | [] => []
  | .regRead _ .sr v :: rest => v :: srWords rest
  | _ :: rest => srWords rest

/-- The values reads of RHR returned, in order. -/
def rhrWords : List Event → List Word
  | [] => []
  | .regRead _ .rhr v :: rest => v :: rhrWords rest
  | _ :: rest => rhrWords rest

/-- The indices and bytes written to the host buffer, in order. -/
def bufWrites : List Event → List (Nat × Byte)
  | [] => []
  | .bufWrite k b :: rest => (k, b) :: bufWrites rest
  | _ :: rest => bufWrites rest

/-- How many delays there are. -/
def delayCount : List Event → Nat
  | [] => 0
  | .delay _ :: rest => delayCount rest + 1
  | _ :: rest => delayCount rest

/-- The code is one of the two faults of a transaction (R84, R166). -/
def faultCode (w : Word) : Bool := w = Config.eNoAck || w = Config.eTimeout

/-! ### Positions (R43) -/

/-- A transaction with this `op` and `rd` is in progress: its latches are as admission left them. -/
def State.transacting (s : State) (op : BitVec 2) (rd : BitVec 1) : Bool :=
  s.op = op && s.rd = rd && (s.slot s.c).initDone && s.len ≠ 0

/-- `i <= len - 1` for a length that is not 0. -/
def State.inBuffer (s : State) : Bool := s.i.toNat < s.len.toNat

/-- The latches and counters agree with the phase (R43). -/
def State.positionOk (s : State) : Bool :=
  match s.phase with
  | .idle => true
  | .iClk => s.op = 1
  | .iCwgr => s.op = 1 && s.gate s.c = .enabled
  | .wMmr | .wIadr | .wMsen | .wStart | .wBuf | .wThr => s.transacting 2 0 && s.inBuffer
  | .wLstop => s.transacting 2 0 && s.lastByte
  | .wPoll | .wDelay => s.transacting 2 0 && s.inBuffer && s.n.toNat < Config.pollMax
  | .wFstop => s.transacting 2 0 && s.inBuffer && faultCode s.result
  | .rMmr | .rIadr | .rStart | .rRhr | .rBuf => s.transacting 3 1 && s.inBuffer
  | .rPoll | .rDelay => s.transacting 3 1 && s.inBuffer && s.n.toNat < Config.pollMax
  | .rLstop => s.transacting 3 1 && s.lastByte && 1 < s.len.toNat
  | .rFstop => s.transacting 3 1 && s.inBuffer && faultCode s.result
  | .rsp =>
    s.op = 1 && (s.result = 0 || s.result = 1 || s.result = 2) ||
      (s.transacting 2 0 || s.transacting 3 1) && (s.result = countWord s.len || faultCode s.result)

/-- An initialised channel has its clock gate enabled (R197) and its CWGR holds the slot's divisor (R21,
R35; C8: no transaction writes CWGR). -/
def State.channelOk (s : State) (c : Channel) : Bool :=
  !(s.slot c).initDone || (s.gate c = .enabled && (s.blk c).cwgr = (s.slot c).cwgrCfg)

/-- Every buffer is in canonical form: the one lent now and those of the commands presented. -/
def State.buffersOk (s : State) : Bool :=
  s.buffer.wf && s.port.all fun cmd => cmd.lent.wf

/-- The invariant of R43, with the registry's and the buffers'. -/
def State.Inv (s : State) : Prop :=
  s.positionOk = true ∧ s.channelOk 0 = true ∧ s.channelOk 1 = true ∧ s.buffersOk = true

/-! ### Launch premises (R194) -/

/-- `LaunchReset`: in flight nothing, no slot initialised, no event performed (R190, R194). -/
def State.LaunchReset (s : State) : Prop :=
  s.phase = .idle ∧ (∀ c, (s.slot c).initDone = false) ∧ s.trace = []

/-- `LaunchInitialised(c, per)`: nothing in flight, channel `c` initialised with divisor `per`, no event
performed; the other slot is unconstrained (R194). -/
def State.LaunchInitialised (s : State) (c : Channel) (per : Word) : Prop :=
  s.phase = .idle ∧ s.slot c = { initDone := true, cwgrCfg := per } ∧ s.trace = []

/-! ### Legal traces -/

/-- The four words the block writes to CR (R160). -/
def crWordLegal (v : Word) : Bool :=
  v = crStartWord || v = crStopWord || v = crStartStopWord || v = crMsenWord

/-- An event the block may perform: only the accesses of R36, CR words of R160 only, every reserved bit
of MMR, IADR and THR written 0 (R87, R90, R91, R97), identifiers of R59, indices of R57 and R58. -/
def Event.legal : Event → Bool
  | .cmd _ => true
  | .clkEn p => p = Config.pid0 || p = Config.pid1
  | .regWrite _ .cr v => crWordLegal v
  | .regWrite _ .mmr v => v &&& 0xFC00ECFF = 0
  | .regWrite _ .iadr v => v &&& 0xFF000000 = 0
  | .regWrite _ .thr v => v &&& 0xFFFFFF00 = 0
  | .regWrite _ .cwgr _ => true
  | .regWrite _ .sr _ => false
  | .regWrite _ .rhr _ => false
  | .regRead _ .sr _ => true
  | .regRead _ .rhr _ => true
  | .regRead _ _ _ => false
  | .bufRead k _ => k < 65535
  | .bufWrite k _ => k < 65535
  | .delay t => t = Config.pollDelay
  | .rsp _ => true

/-- Every event of the trace is legal. -/
def State.traceLegal (s : State) : Bool := s.trace.all Event.legal

/-- The event is the write of `CR.STOP` (R158). -/
def isStop : Event → Bool
  | .regWrite _ .cr v => v = crStopWord
  | _ => false

/-- The event is a response that reports a fault of a transaction. -/
def isFaultResponse : Event → Bool
  | .rsp w => faultCode w
  | _ => false

/-- Every fault response stands right after a STOP (R162, R171); `prev` says whether the event before
the list was one. -/
def stopBeforeFault (prev : Bool) : List Event → Bool
  | [] => true
  | e :: rest => (!isFaultResponse e || prev) && stopBeforeFault (isStop e) rest

/-- The last event is a STOP. -/
def endsWithStop (es : List Event) : Bool := es.getLast?.any isStop

/-- A failed transaction leaves its STOP on the trace (R162): every fault response follows one, and one
about to be given does too. -/
def State.faultsFramed (s : State) : Bool :=
  stopBeforeFault false s.trace &&
    (s.phase ≠ .rsp || !faultCode s.result || endsWithStop s.trace)

/-! ### What each phase does (R23) -/

/-- The one event a phase performs, written from the table of R23; in `IDLE` it is the acceptance of the
command presented, if there is one. -/
def State.nextEvent (s : State) : Option Event :=
  match s.phase with
  | .idle => s.port.head?.map fun cmd => .cmd cmd.word
  | .iClk => some (.clkEn (Config.pid s.c))
  | .iCwgr => some (.regWrite s.c .cwgr s.per)
  | .wMmr | .rMmr => some (.regWrite s.c .mmr (mmrWord s.sadr s.iasz s.rd))
  | .wIadr | .rIadr => some (.regWrite s.c .iadr (iadrWord s.iaddr))
  | .wMsen => some (.regWrite s.c .cr crMsenWord)
  | .wStart => some (.regWrite s.c .cr crStartWord)
  | .rStart => some (.regWrite s.c .cr (if s.len = 1 then crStartWord else crStartStopWord))
  | .wBuf => some (.bufRead s.i.toNat (s.bufByte s.i.toNat))
  | .wThr => some (.regWrite s.c .thr (thrWord s.b))
  | .wPoll | .rPoll => some (.regRead s.c .sr s.srAnswer)
  | .wDelay | .rDelay => some (.delay Config.pollDelay)
  | .rRhr => some (.regRead s.c .rhr s.rhrAnswer)
  | .rBuf => some (.bufWrite s.i.toNat s.b)
  | .wLstop | .wFstop | .rLstop | .rFstop => some (.regWrite s.c .cr crStopWord)
  | .rsp => some (.rsp s.result)

/-! ### Which latches are alive (R22, R42) -/

/-- The phase belongs to an `INIT`. -/
def Phase.ofInit : Phase → Bool
  | .iClk | .iCwgr => true
  | _ => false

/-- The phase belongs to a `MASTER_WRITE`, before the response (R23). -/
def Phase.ofWrite : Phase → Bool
  | .wMmr | .wIadr | .wMsen | .wStart | .wBuf | .wThr | .wLstop | .wPoll | .wDelay | .wFstop => true
  | _ => false

/-- The phase belongs to a `MASTER_READ`, before the response (R23). -/
def Phase.ofRead : Phase → Bool
  | .rMmr | .rIadr | .rStart | .rPoll | .rDelay | .rRhr | .rBuf | .rLstop | .rFstop => true
  | _ => false

/-- The phase belongs to a transaction, before the response. -/
def Phase.ofTransaction (p : Phase) : Bool := p.ofWrite || p.ofRead

/-- The phase is in the byte loop of a transaction or follows it. -/
def Phase.afterStart : Phase → Bool
  | .wMmr | .wIadr | .wMsen | .wStart | .rMmr | .rIadr | .rStart => false
  | p => p.ofTransaction

/-- The phase is in a wait. -/
def Phase.inWait : Phase → Bool
  | .wPoll | .wDelay | .rPoll | .rDelay => true
  | _ => false

/-- The state with every latch and counter that holds no value in its phase blanked out (R22: dead after
the response; R42: no value until written). -/
def State.liveView (s : State) : State :=
  { s with
    op := if s.phase = .idle then 0 else s.op
    c := if s.phase.ofInit || s.phase.ofTransaction then s.c else 0
    per := if s.phase.ofInit then s.per else 0
    sadr := if s.phase.ofTransaction then s.sadr else 0
    iasz := if s.phase.ofTransaction then s.iasz else 0
    iaddr := if s.phase.ofTransaction then s.iaddr else 0
    len := if s.phase.ofTransaction then s.len else 0
    rd := if s.phase.ofTransaction then s.rd else 0
    i := if s.phase.afterStart then s.i else 0
    n := if s.phase.inWait then s.n else 0
    b := if s.phase = .wThr || s.phase = .rBuf then s.b else 0
    result := if s.phase = .wFstop || s.phase = .rFstop || s.phase = .rsp then s.result else 0 }

end Sys2Proof.Machine
end

