-- ==== Sys2Proof/Certificates/Slice0/Obligations.lean ====
section
/-! DEFINITION. What is to be proved of the model, from the numbered rules of spec/. -/

open Sys2Proof Sys2Proof.Machine

/-! ### Encodings -/

/-- The twelve words of 95_test_vectors.md V-E1 to V-E12 and the five CR words of 30_encoding.md R95
decode to the instructions they stand for. -/
def Obligations.SpecWordsDecode : Prop :=
  decodeCommand 0x0000001000000001 = .ok (.init 0 0x10) ∧
  decodeCommand 0x0000001000000005 = .ok (.init 1 0x10) ∧
  decodeCommand 0x0000001000000009 = .ok (.init 2 0x10) ∧
  decodeCommand 0x0001D0D000000005 = .ok (.init 1 0x1D0D0) ∧
  decodeCommand 0x0000000000021416 = .ok (.masterWrite 1 1 0x50 2 0x00) ∧
  decodeCommand 0x0000000000031417 = .ok (.masterRead 1 1 0x50 3 0x00) ∧
  decodeCommand 0x0000000000011417 = .ok (.masterRead 1 1 0x50 1 0x00) ∧
  decodeCommand 0x0000123400011A2A = .ok (.masterWrite 2 2 0x68 1 0x1234) ∧
  decodeCommand 0x0000123400031A2A = .ok (.masterWrite 2 2 0x68 3 0x1234) ∧
  decodeCommand 0x00ABCDEF0002FFFB = .ok (.masterRead 2 3 0x3FF 2 0xABCDEF) ∧
  decodeCommand 0x0000003200010757 = .ok (.masterRead 1 1 0x1D 1 0x32) ∧
  decodeCommand 0x0000000000011406 = .ok (.masterWrite 1 0 0x50 1 0x00) ∧
  decodeCr 0x00000001 = .ok .crStart ∧ decodeCr 0x00000002 = .ok .crStop ∧
  decodeCr 0x00000003 = .ok .crStartStop ∧ decodeCr 0x00000004 = .ok .crMsen ∧
  decodeCr 0x00000008 = .ok .crMsdis

/-- Decoding the word of any instruction gives it back, with every operand at every value (R81, R82,
R95). -/
def Obligations.DecodeOfEncode : Prop :=
  ∀ i e, encode i = some e → decode e = .ok i

/-- A word that decodes is the word of the instruction it decodes to: no bit of it is dropped. -/
def Obligations.EncodeOfDecode : Prop :=
  ∀ e i, decode e = .ok i → encode i = some e

/-- R95: a word is the instruction of a row exactly when `w & mask = match`; no word is `WAIT_FOR`. -/
def Obligations.OpcodeMapDecides : Prop :=
  (∀ w, (∃ chsel clkper, decodeCommand w = .ok (.init chsel clkper)) ↔
    w &&& 0x00000000FFFFFC03 = 0x0000000000000001) ∧
  (∀ w, (∃ h z a l ia, decodeCommand w = .ok (.masterWrite h z a l ia)) ↔
    w &&& 0xFF00000000000003 = 0x0000000000000002) ∧
  (∀ w, (∃ h z a l ia, decodeCommand w = .ok (.masterRead h z a l ia)) ↔
    w &&& 0xFF00000000000003 = 0x0000000000000003) ∧
  (∀ w, decodeCr w = .ok .crStart ↔ w &&& 0xFFFFFFFF = 0x00000001) ∧
  (∀ w, decodeCr w = .ok .crStop ↔ w &&& 0xFFFFFFFF = 0x00000002) ∧
  (∀ w, decodeCr w = .ok .crStartStop ↔ w &&& 0xFFFFFFFF = 0x00000003) ∧
  (∀ w, decodeCr w = .ok .crMsen ↔ w &&& 0xFFFFFFFF = 0x00000004) ∧
  (∀ w, decodeCr w = .ok .crMsdis ↔ w &&& 0xFFFFFFFF = 0x00000008) ∧
  (∀ e ready, decode e ≠ .ok (.waitFor ready))

/-- R94: the mode-register word has each operand in its place and zeros elsewhere, and it is the sum of
the shifted operands as well as their OR. -/
def Obligations.ModeRegisterAssembly : Prop :=
  (∀ (sadr : BitVec 10) (iasz : BitVec 2) (rd : BitVec 1),
    field (mmrWord sadr iasz rd) 16 10 = sadr ∧ field (mmrWord sadr iasz rd) 8 2 = iasz ∧
    field (mmrWord sadr iasz rd) 12 1 = rd ∧ mmrWord sadr iasz rd &&& 0xFC00ECFF = 0 ∧
    mmrWord sadr iasz rd =
      (sadr.setWidth 32 <<< 16) + (iasz.setWidth 32 <<< 8) + (rd.setWidth 32 <<< 12)) ∧
  mmrWord 0x50 1 0 = 0x00500100 ∧ mmrWord 0x50 1 1 = 0x00501100 ∧
  mmrWord 0x3FF 3 1 = 0x03FF1300 ∧ mmrWord 0 0 0 = 0x00000000

/-- R51, R52, R54, R86: the fourteen register addresses are `BASE[c] + OFF(REG)`, all different and
word-aligned. `BASE` is the model's parameter (log entry 8). -/
def Obligations.RegisterMapInjective : Prop :=
  (∀ c r, regAddress c r = Config.base c + r.offset) ∧
  (∀ c r c' r', regAddress c r = regAddress c' r' → c = c' ∧ r = r') ∧
  (∀ c r, (regAddress c r).toNat % 4 = 0)

/-- R85: the handles of the two channels are 1 and 2, and each names its channel. -/
def Obligations.HandleEncoding : Prop :=
  handleOf 0 = 1 ∧ handleOf 1 = 2 ∧
  (∀ c, handleOf c ≠ 0 ∧ handleOf c ≠ 3 ∧ channelOfHandle (handleOf c) = c) ∧
  (∀ c c', handleOf c = handleOf c' → c = c')

/-! ### Acceptance and stepping -/

/-- In `IDLE` a step takes the command at the head of the port and runs its decoded instruction; in
every other phase it runs the command in progress (R25, R26). With nothing presented a step in `IDLE` does
nothing: that is the model's choice (log entry 4). -/
def Obligations.StepRunsInstruction : Prop :=
  (∀ s cmd rest i, s.phase = .idle → s.port = cmd :: rest → decodeCommand cmd.word = .ok i →
    step s = exec i (s.accept cmd rest)) ∧
  (∀ s, s.phase ≠ .idle → step s = exec s.running s) ∧
  (∀ s, s.phase = .idle → s.port = [] → step s = .next s)

/-- R96: in `IDLE` exactly these commands are refused. A word with `OP = 1` and its reserved bits zero
never is, whatever its selector. -/
def Obligations.RefusedCommands : Prop :=
  ∀ s cmd rest, s.phase = .idle → s.port = cmd :: rest →
    ((∃ why, step s = .refused why) ↔
      (field cmd.word 0 2 = 0 ∨
       (field cmd.word 0 2 = 1 ∧ field cmd.word 10 22 ≠ 0) ∨
       ((field cmd.word 0 2 = 2 ∨ field cmd.word 0 2 = 3) ∧
         (field cmd.word 56 8 ≠ 0 ∨ field cmd.word 16 16 = 0 ∨
          field cmd.word 2 2 = 0 ∨ field cmd.word 2 2 = 3 ∨
          (s.slot (channelOfHandle (field cmd.word 2 2))).initDone = false))))

/-- R83: each field of an accepted command is copied unsigned into the latch of the same name. -/
def Obligations.OperandsLatched : Prop :=
  ∀ s t cmd rest, s.phase = .idle → s.port = cmd :: rest → step s = .next t →
    (field cmd.word 0 2 = 1 → (field cmd.word 2 8 = 0 ∨ field cmd.word 2 8 = 1) →
      t.per = field cmd.word 32 32 ∧ t.c = field cmd.word 2 1) ∧
    ((field cmd.word 0 2 = 2 ∨ field cmd.word 0 2 = 3) →
      t.c = (field cmd.word 2 2 - 1).setWidth 1 ∧ t.iasz = field cmd.word 4 2 ∧
      t.sadr = field cmd.word 6 10 ∧ t.len = field cmd.word 16 16 ∧
      t.iaddr = field cmd.word 32 24 ∧ t.rd = field cmd.word 0 1)

/-- Acceptance takes one command from the port, records it, lends its buffer to a transaction, and
touches no register, slot, gate or oracle answer (R25 rows `IDLE`, R26, R66). The port as a list, the lent
buffer and `i` at 0 in an admitted transaction are the model's choices (log entries 4, 3 and 21, 11). -/
def Obligations.AcceptanceFrame : Prop :=
  ∀ s t cmd rest, s.phase = .idle → s.port = cmd :: rest → step s = .next t →
    t.phase ≠ .idle ∧ t.port = rest ∧ t.trace = s.trace ++ [.cmd cmd.word] ∧
    t.buffer = (if field cmd.word 0 2 = 1 then s.buffer else cmd.lent) ∧
    (∀ c, t.slot c = s.slot c ∧ t.blk c = s.blk c ∧ t.gate c = s.gate c) ∧
    t.srAnswers = s.srAnswers ∧ t.rhrAnswers = s.rhrAnswers ∧ t.draws = s.draws ∧
    t.i = (if field cmd.word 0 2 = 1 then s.i else 0) ∧ t.n = s.n ∧ t.b = s.b

/-- R26: while the block is busy a command presented is held, not lost and not merged: the port keeps it,
and run in a phase that belongs to another command it changes nothing (log entry 18). -/
def Obligations.BusyPortHeld : Prop :=
  (∀ s t, s.phase ≠ .idle → step s = .next t → t.port = s.port) ∧
  (∀ s, (s.phase.ofTransaction = true → ∀ chsel clkper, exec (.init chsel clkper) s = .next s)) ∧
  (∀ s, s.phase.ofInit = true → ∀ h z a l ia,
    exec (.masterWrite h z a l ia) s = .next s ∧ exec (.masterRead h z a l ia) s = .next s) ∧
  (∀ s, s.phase.ofWrite = true → ∀ h z a l ia, exec (.masterRead h z a l ia) s = .next s) ∧
  (∀ s, s.phase.ofRead = true → ∀ h z a l ia, exec (.masterWrite h z a l ia) s = .next s)

/-- Each phase performs exactly one event, the one of the table of R23. Only `IDLE` with nothing presented
performs none and changes nothing: that is the model's choice (log entry 4). -/
def Obligations.OneEventPerPhase : Prop :=
  ∀ s t, step s = .next t →
    (s.nextEvent = none ∧ t = s) ∨ (∃ e, s.nextEvent = some e ∧ t.trace = s.trace ++ [e])

/-! ### INIT -/

/-- R111: a valid selector is latched with the clock period, and the next event is `ClockEnable`. That
`op` is latched too is the model's inference (log entry 7). -/
def Obligations.InitAccepted : Prop :=
  ∀ chsel clkper s, s.phase = .idle → (chsel = 0 ∨ chsel = 1) →
    exec (.init chsel clkper) s =
      .next { s with op := 1, c := chsel.setWidth 1, per := clkper, phase := .iClk }

/-- R112: an invalid selector answers the null handle and changes nothing else (log entry 7 for `op`). -/
def Obligations.InitInvalidSelector : Prop :=
  ∀ chsel clkper s, s.phase = .idle → chsel ≠ 0 → chsel ≠ 1 →
    exec (.init chsel clkper) s = .next { s with op := 1, result := 0, phase := .rsp }

/-- R111, R25: `ClockEnable`, then the CWGR write with the slot, then the response. -/
def Obligations.InitEvents : Prop :=
  ∀ chsel clkper s,
    (s.phase = .iClk → ∃ t, exec (.init chsel clkper) s = .next t ∧ t.phase = .iCwgr ∧
      t.gate s.c = .enabled ∧ t.trace = s.trace ++ [.clkEn (Config.pid s.c)] ∧
      t.per = s.per ∧ t.c = s.c) ∧
    (s.phase = .iCwgr → ∃ t, exec (.init chsel clkper) s = .next t ∧ t.phase = .rsp ∧
      (t.blk s.c).cwgr = s.per ∧ t.slot s.c = { initDone := true, cwgrCfg := s.per } ∧
      t.result.toNat = s.c.toNat + 1 ∧ t.trace = s.trace ++ [.regWrite s.c .cwgr s.per]) ∧
    (s.phase = .rsp → exec (.init chsel clkper) s =
      .next { s with phase := .idle, trace := s.trace ++ [.rsp s.result] })

/-- R44: an `INIT` writes nothing but the slot, `c`, `per`, `result`, CWGR and the gate of its channel
(and `op` at acceptance, log entry 7). -/
def Obligations.InitFrame : Prop :=
  ∀ chsel clkper s t, exec (.init chsel clkper) s = .next t →
    t.sadr = s.sadr ∧ t.iasz = s.iasz ∧ t.iaddr = s.iaddr ∧ t.len = s.len ∧ t.rd = s.rd ∧
    t.i = s.i ∧ t.n = s.n ∧ t.b = s.b ∧ t.port = s.port ∧
    (∀ k, t.buffer.read k = s.buffer.read k) ∧
    t.srAnswers = s.srAnswers ∧ t.rhrAnswers = s.rhrAnswers ∧ t.draws = s.draws ∧
    (s.phase ≠ .idle → t.op = s.op ∧ t.c = s.c ∧ t.per = s.per) ∧
    (s.phase ≠ .idle → s.phase ≠ .iCwgr → t.result = s.result) ∧
    (∀ c, (t.blk c).mmr = (s.blk c).mmr ∧ (t.blk c).iadr = (s.blk c).iadr ∧
      (t.blk c).thr = (s.blk c).thr) ∧
    (∀ c, (s.phase ≠ .iCwgr ∨ c ≠ s.c) → (t.blk c).cwgr = (s.blk c).cwgr ∧ t.slot c = s.slot c) ∧
    (∀ c, (s.phase ≠ .iClk ∨ c ≠ s.c) → t.gate c = s.gate c)

/-- R111, R113, R114: a valid `INIT` presented to an idle block runs to its response in four steps: its
trace is `Cmd; ClkEn; W CWGR; Rsp(c + 1)`, its channel is initialised with the new divisor whether or not
it was before, no other register of it is written, and the other channel is untouched. With its trace cleared
the end state meets the launch premise `LaunchInitialised(c, per)` of R194, so that premise can hold for every
`c` and `per`. -/
def Obligations.InitRun : Prop :=
  ∀ (s : State) cmd rest chsel clkper, s.phase = .idle → s.port = cmd :: rest →
    decodeCommand cmd.word = .ok (.init chsel clkper) → (chsel = 0 ∨ chsel = 1) →
    ∃ t : State, Host.Core.run core 4 s = .next t ∧ t.phase = .idle ∧ t.port = rest ∧
      State.LaunchInitialised { t with trace := [] } (chsel.setWidth 1) clkper ∧
      t.trace = s.trace ++ [.cmd cmd.word, .clkEn (Config.pid (chsel.setWidth 1)),
        .regWrite (chsel.setWidth 1) .cwgr clkper, .rsp (chsel.setWidth 32 + 1)] ∧
      t.slot (chsel.setWidth 1) = { initDone := true, cwgrCfg := clkper } ∧
      t.blk (chsel.setWidth 1) = { s.blk (chsel.setWidth 1) with cwgr := clkper } ∧
      t.gate (chsel.setWidth 1) = .enabled ∧
      (∀ c, c ≠ chsel.setWidth 1 → t.slot c = s.slot c ∧ t.blk c = s.blk c ∧ t.gate c = s.gate c)

/-- R112: an `INIT` with any other selector runs in two steps, `Cmd; Rsp(0)`, and touches no slot, no
register and no gate; the block is idle again. -/
def Obligations.InvalidInitRun : Prop :=
  ∀ (s : State) cmd rest chsel clkper, s.phase = .idle → s.port = cmd :: rest →
    decodeCommand cmd.word = .ok (.init chsel clkper) → chsel ≠ 0 → chsel ≠ 1 →
    ∃ t : State, Host.Core.run core 2 s = .next t ∧ t.phase = .idle ∧ t.port = rest ∧
      t.trace = s.trace ++ [.cmd cmd.word, .rsp 0] ∧
      (∀ c, t.slot c = s.slot c ∧ t.blk c = s.blk c ∧ t.gate c = s.gate c)

/-! ### WAIT_FOR -/

/-- R121, R25 rows `W_POLL`: one poll of a write's wait, in each of its five cases. -/
def Obligations.WriteWaitPoll : Prop :=
  ∀ s, s.phase = .wPoll → s.n.toNat < Config.pollMax → s.i.toNat < s.len.toNat →
    ∃ t, exec (.waitFor .txrdy) s = .next t ∧
      t.trace = s.trace ++ [.regRead s.c .sr s.srAnswer] ∧ t.n.toNat = s.n.toNat + 1 ∧
      (if s.srAnswer &&& 0x100 ≠ 0 then t.phase = .wFstop ∧ t.result = Config.eNoAck ∧ t.i = s.i
       else if s.srAnswer &&& 0x4 ≠ 0 then
         (if s.i.toNat + 1 = s.len.toNat then
            t.phase = .rsp ∧ t.result = s.len.setWidth 32 ∧ t.i = s.i
          else t.phase = .wBuf ∧ t.i.toNat = s.i.toNat + 1 ∧ t.result = s.result)
       else if s.n.toNat + 1 = Config.pollMax then
         t.phase = .wFstop ∧ t.result = Config.eTimeout ∧ t.i = s.i
       else t.phase = .wDelay ∧ t.result = s.result ∧ t.i = s.i)

/-- R121, R25 rows `R_POLL`: one poll of a read's wait, in each of its four cases. -/
def Obligations.ReadWaitPoll : Prop :=
  ∀ s, s.phase = .rPoll → s.n.toNat < Config.pollMax →
    ∃ t, exec (.waitFor .rxrdy) s = .next t ∧
      t.trace = s.trace ++ [.regRead s.c .sr s.srAnswer] ∧ t.n.toNat = s.n.toNat + 1 ∧ t.i = s.i ∧
      (if s.srAnswer &&& 0x100 ≠ 0 then t.phase = .rFstop ∧ t.result = Config.eNoAck
       else if s.srAnswer &&& 0x2 ≠ 0 then t.phase = .rRhr ∧ t.result = s.result
       else if s.n.toNat + 1 = Config.pollMax then t.phase = .rFstop ∧ t.result = Config.eTimeout
       else t.phase = .rDelay ∧ t.result = s.result)

/-- R121, R125, R25 rows `W_DELAY`, `R_DELAY`: the delay, then the next poll. -/
def Obligations.WaitDelay : Prop :=
  ∀ ready s, s.phase = delayPhase ready →
    exec (.waitFor ready) s =
      .next { s with phase := pollPhase ready, trace := s.trace ++ [.delay Config.pollDelay] }

/-- R121: called anywhere else, `WAIT_FOR` sets `n` to 0 and polls next; nothing else changes (log entry
17: that the call is a step of its own is the model's choice). -/
def Obligations.WaitCall : Prop :=
  ∀ ready s, s.phase ≠ pollPhase ready → s.phase ≠ delayPhase ready →
    exec (.waitFor ready) s = .next { s with n := 0, phase := pollPhase ready }

/-- R123: NACK wins over the ready bit and over the exhausted budget, the ready bit wins over the budget,
and `Timeout` needs the `POLL_MAX`-th value to have neither bit. -/
def Obligations.PollPriority : Prop :=
  ∀ ready s t, s.phase = pollPhase ready → s.n.toNat < Config.pollMax →
    exec (.waitFor ready) s = .next t →
    (nackSet s.srAnswer = true → t.phase = forcedStopPhase ready ∧ t.result = Config.eNoAck) ∧
    (nackSet s.srAnswer = false → readySet ready s.srAnswer = true →
      t.phase ≠ forcedStopPhase ready ∧ t.phase ≠ delayPhase ready) ∧
    (nackSet s.srAnswer = false → readySet ready s.srAnswer = false →
      (s.n.toNat + 1 = Config.pollMax →
        t.phase = forcedStopPhase ready ∧ t.result = Config.eTimeout) ∧
      (s.n.toNat + 1 ≠ Config.pollMax → t.phase = delayPhase ready))

/-- R126: bits of SR other than NACK and the requested ready bit do not influence the outcome: two polls
whose values agree on those two bits differ in nothing but the value recorded; and a wait that keeps
reading the other ready bit alone times out. -/
def Obligations.UnusedStatusBitsIgnored : Prop :=
  (∀ ready s v w rest, s.phase = pollPhase ready → s.srAnswers = v :: rest →
    v &&& (nackMask ||| readyMask ready) = w &&& (nackMask ||| readyMask ready) →
    exec (.waitFor ready) { s with srAnswers := w :: rest } =
      (match exec (.waitFor ready) s with
       | .next t => .next { t with trace := s.trace ++ [.regRead s.c .sr w] }
       | o => o)) ∧
  (∀ ready (s : State) rest, s.phase = pollPhase ready → s.n = 0 →
    s.srAnswers = List.replicate Config.pollMax (match ready with
      | .rxrdy => 0x00000004
      | .txrdy => 0x00000002) ++ rest →
    ∃ t : State, Host.Core.run core (2 * Config.pollMax - 1) s = .next t ∧
      t.phase = forcedStopPhase ready ∧ t.result = Config.eTimeout)

/-- What `WAIT_FOR` leaves unchanged: it writes no register, no slot, no buffer byte and no latch but
`n`, and `i` or `result` only where the wait ends (R121, R25). -/
def Obligations.WaitForFrame : Prop :=
  ∀ ready s t, exec (.waitFor ready) s = .next t →
    t.op = s.op ∧ t.c = s.c ∧ t.per = s.per ∧ t.sadr = s.sadr ∧ t.iasz = s.iasz ∧
    t.iaddr = s.iaddr ∧ t.len = s.len ∧ t.rd = s.rd ∧ t.b = s.b ∧ t.port = s.port ∧
    (∀ c, t.slot c = s.slot c ∧ t.blk c = s.blk c ∧ t.gate c = s.gate c) ∧
    (∀ k, t.buffer.read k = s.buffer.read k) ∧ t.rhrAnswers = s.rhrAnswers ∧
    (s.phase ≠ pollPhase ready →
      t.i = s.i ∧ t.result = s.result ∧ t.srAnswers = s.srAnswers ∧ t.draws = s.draws) ∧
    (t.phase = delayPhase ready → t.i = s.i ∧ t.result = s.result) ∧
    (s.phase = delayPhase ready → t.n = s.n)

/-- R121, R25: polling row by row from the first poll on is the pseudocode's wait, and the row that ends
it does what the pseudocode's result says. -/
def Obligations.WaitRowsAreThePseudocode : Prop :=
  ∀ ready (s : State), s.phase = pollPhase ready → s.n = 0 →
    ∃ k, k ≤ 2 * Config.pollMax - 1 ∧
      Host.Core.run core k s = (waitWhole ready s).1.waitReturns ready (waitWhole ready s).2

/-- R123, R124, R125: with SR answering `m` values with neither bit and then `v`, the wait goes on for
exactly `m` polls, each followed by a delay, and ends at `v` if `v` has NACK or the ready bit or is the
`POLL_MAX`-th value. -/
def Obligations.WaitEndsAtDecisiveAnswer : Prop :=
  ∀ ready (s : State) dead v rest, s.phase = pollPhase ready → s.n = 0 → s.i.toNat < s.len.toNat →
    s.srAnswers = dead ++ v :: rest → dead.length < Config.pollMax →
    (∀ w ∈ dead, nackSet w = false ∧ readySet ready w = false) →
    (nackSet v = true ∨ readySet ready v = true ∨ dead.length + 1 = Config.pollMax) →
    ∃ t : State, ∃ es, Host.Core.run core (2 * dead.length + 1) s = .next t ∧
      t.trace = s.trace ++ es ∧
      srWords es = dead ++ [v] ∧ delayCount es = dead.length ∧ t.srAnswers = rest ∧
      es.length = 2 * dead.length + 1 ∧
      (∀ k, ∀ u : State, k ≤ 2 * dead.length → Host.Core.run core k s = .next u →
        u.phase = pollPhase ready ∨ u.phase = delayPhase ready) ∧
      t.phase ≠ pollPhase ready ∧ t.phase ≠ delayPhase ready ∧
      (nackSet v = true → t.phase = forcedStopPhase ready ∧ t.result = Config.eNoAck) ∧
      (nackSet v = false → readySet ready v = true → t.phase ≠ forcedStopPhase ready) ∧
      (nackSet v = false → readySet ready v = false →
        t.phase = forcedStopPhase ready ∧ t.result = Config.eTimeout)

/-! ### MASTER_WRITE -/

/-- R26, R130: an admitted write is latched and its first event is the MMR write. That `op` is latched and
that `i` is 0 from here on are log entries 7 and 11. -/
def Obligations.WriteAccepted : Prop :=
  ∀ handle iasz sadr len iaddr s, s.phase = .idle → (handle = 1 ∨ handle = 2) → len ≠ 0 →
    (s.slot (channelOfHandle handle)).initDone = true →
    exec (.masterWrite handle iasz sadr len iaddr) s =
      .next { s with op := 2, c := (handle - 1).setWidth 1, sadr := sadr, iasz := iasz,
                     iaddr := iaddr, len := len, rd := 0, i := 0, phase := .wMmr }

/-- R132, after the two writes of R131: the set-up of a write is MMR, IADR whatever `iasz` is, `CR.MSEN`,
then `CR.START`, two writes and in every `MASTER_WRITE`. -/
def Obligations.WriteSetUp : Prop :=
  ∀ handle iasz sadr len iaddr s,
    (s.phase = .wMmr → ∃ t, exec (.masterWrite handle iasz sadr len iaddr) s = .next t ∧
      t.phase = .wIadr ∧ (t.blk s.c).mmr = mmrWord s.sadr s.iasz s.rd ∧
      t.trace = s.trace ++ [.regWrite s.c .mmr (mmrWord s.sadr s.iasz s.rd)]) ∧
    (s.phase = .wIadr → ∃ t, exec (.masterWrite handle iasz sadr len iaddr) s = .next t ∧
      t.phase = .wMsen ∧ (t.blk s.c).iadr = s.iaddr.setWidth 32 ∧
      t.trace = s.trace ++ [.regWrite s.c .iadr (s.iaddr.setWidth 32)]) ∧
    (s.phase = .wMsen → exec (.masterWrite handle iasz sadr len iaddr) s =
      .next { s with phase := .wStart, trace := s.trace ++ [.regWrite s.c .cr 0x00000004] }) ∧
    (s.phase = .wStart → exec (.masterWrite handle iasz sadr len iaddr) s =
      .next { s with i := 0, phase := .wBuf, trace := s.trace ++ [.regWrite s.c .cr 0x00000001] })

/-- R133, R134: one byte of a write: the buffer is read at `i`, the byte goes to THR, and for the last
byte the STOP is written before the wait begins. That THR keeps the word handed over is log entry 20. -/
def Obligations.WriteByte : Prop :=
  ∀ handle iasz sadr len iaddr s, s.i.toNat < s.len.toNat →
    (s.phase = .wBuf → ∃ t, exec (.masterWrite handle iasz sadr len iaddr) s = .next t ∧
      t.phase = .wThr ∧ t.b = s.bufByte s.i.toNat ∧ t.buffer = s.buffer ∧
      t.trace = s.trace ++ [.bufRead s.i.toNat (s.bufByte s.i.toNat)]) ∧
    (s.phase = .wThr → ∃ t, exec (.masterWrite handle iasz sadr len iaddr) s = .next t ∧
      t.phase = (if s.i.toNat + 1 = s.len.toNat then .wLstop else .wPoll) ∧
      t.n = (if s.i.toNat + 1 = s.len.toNat then s.n else 0) ∧
      (t.blk s.c).thr = s.b.setWidth 32 ∧
      t.trace = s.trace ++ [.regWrite s.c .thr (s.b.setWidth 32)]) ∧
    (s.phase = .wLstop → exec (.masterWrite handle iasz sadr len iaddr) s =
      .next { s with n := 0, phase := .wPoll, trace := s.trace ++ [.regWrite s.c .cr 0x00000002] })

/-- R121, R130: in a wait, `MASTER_WRITE` does what `WAIT_FOR` with TXRDY does. -/
def Obligations.WriteCallsWaitFor : Prop :=
  ∀ handle iasz sadr len iaddr s, (s.phase = .wPoll ∨ s.phase = .wDelay) →
    exec (.masterWrite handle iasz sadr len iaddr) s = exec (.waitFor .txrdy) s

/-- R171, R173: the forced STOP of a failed transaction, then the response, then `IDLE`; the slots, MMR,
IADR, CWGR and the buffer keep what they hold. -/
def Obligations.ForcedStopAndResponse : Prop :=
  ∀ handle iasz sadr len iaddr s,
    (s.phase = .wFstop → exec (.masterWrite handle iasz sadr len iaddr) s =
      .next { s with phase := .rsp, trace := s.trace ++ [.regWrite s.c .cr 0x00000002] }) ∧
    (s.phase = .rFstop → exec (.masterRead handle iasz sadr len iaddr) s =
      .next { s with phase := .rsp, trace := s.trace ++ [.regWrite s.c .cr 0x00000002] }) ∧
    (s.phase = .rsp →
      exec (.masterWrite handle iasz sadr len iaddr) s =
        .next { s with phase := .idle, trace := s.trace ++ [.rsp s.result] } ∧
      exec (.masterRead handle iasz sadr len iaddr) s =
        .next { s with phase := .idle, trace := s.trace ++ [.rsp s.result] })

/-- What one event of a write leaves unchanged (R36, R22, R39): CWGR, the slots, the gates, the other
channel, the buffer and the RHR answers always; each of MMR, IADR, THR, `i`, `n`, `b`, `result` but in
the phase that writes it (`i` at acceptance: log entry 11; THR: log entry 20). -/
def Obligations.WriteFrame : Prop :=
  ∀ handle iasz sadr len iaddr s t, exec (.masterWrite handle iasz sadr len iaddr) s = .next t →
    t.per = s.per ∧ t.port = s.port ∧ t.rhrAnswers = s.rhrAnswers ∧
    (∀ k, t.buffer.read k = s.buffer.read k) ∧
    (∀ c, t.slot c = s.slot c ∧ t.gate c = s.gate c ∧ (t.blk c).cwgr = (s.blk c).cwgr) ∧
    (∀ c, c ≠ s.c → t.blk c = s.blk c) ∧
    (s.phase ≠ .wMmr → (t.blk s.c).mmr = (s.blk s.c).mmr) ∧
    (s.phase ≠ .wIadr → (t.blk s.c).iadr = (s.blk s.c).iadr) ∧
    (s.phase ≠ .wThr → (t.blk s.c).thr = (s.blk s.c).thr) ∧
    (s.phase ≠ .idle → t.op = s.op ∧ t.c = s.c ∧ t.sadr = s.sadr ∧ t.iasz = s.iasz ∧
      t.iaddr = s.iaddr ∧ t.len = s.len ∧ t.rd = s.rd) ∧
    (s.phase ≠ .idle → s.phase ≠ .wStart → s.phase ≠ .wPoll → t.i = s.i) ∧
    (s.phase ≠ .wThr → s.phase ≠ .wLstop → s.phase ≠ .wPoll → t.n = s.n) ∧
    (s.phase ≠ .wBuf → t.b = s.b) ∧
    (s.phase ≠ .wPoll → t.result = s.result ∧ t.srAnswers = s.srAnswers) ∧
    (s.phase ≠ .wPoll → s.phase ≠ .wBuf → t.draws = s.draws)

/-- R130, R25: an admitted write presented to an idle block runs, within the bound of R25, to exactly the
state the pseudocode of R130 gives. -/
def Obligations.WriteRefinesPseudocode : Prop :=
  ∀ (s : State) cmd rest handle iasz sadr len iaddr, s.phase = .idle → s.port = cmd :: rest →
    decodeCommand cmd.word = .ok (.masterWrite handle iasz sadr len iaddr) →
    (handle = 1 ∨ handle = 2) → len ≠ 0 →
    (s.slot (channelOfHandle handle)).initDone = true →
    ∃ k, k ≤ 8 + len.toNat * (2 * Config.pollMax + 1) ∧
      Host.Core.run core k s =
        .next (writeWhole ((s.accept cmd rest).latchTransaction 2 handle iasz sadr len iaddr))

/-- R161 rows `write`, R135, R136, R137, R162: every admitted write ends in `IDLE`; on success `len`
bytes went to THR and the CR words were MSEN, START, STOP; on a fault at byte `k` exactly `k + 1` bytes
went to THR, the CR words were MSEN, START, the STOP of the last byte if `k` was the last, and the forced
STOP, which is the event right before the response. -/
def Obligations.WriteFraming : Prop :=
  ∀ (s : State) cmd rest handle iasz sadr len iaddr, s.phase = .idle → s.port = cmd :: rest →
    decodeCommand cmd.word = .ok (.masterWrite handle iasz sadr len iaddr) →
    (handle = 1 ∨ handle = 2) → len ≠ 0 →
    (s.slot (channelOfHandle handle)).initDone = true →
    ∃ k, ∃ t : State, ∃ es, Host.Core.run core k s = .next t ∧ t.phase = .idle ∧
      t.trace = s.trace ++ es ∧
      ((∃ pre, es = pre ++ [.rsp (len.setWidth 32)] ∧ (thrWords es).length = len.toNat ∧
          crWords es = [0x4, 0x1, 0x2]) ∨
       (∃ pre v code j, es = pre ++ [.regRead t.c .sr v, .regWrite t.c .cr 0x2, .rsp code] ∧
          (code = Config.eNoAck ∧ nackSet v = true ∨
            code = Config.eTimeout ∧ nackSet v = false ∧ readySet .txrdy v = false) ∧
          j < len.toNat ∧ (thrWords es).length = j + 1 ∧
          crWords es = (if j + 1 = len.toNat then [0x4, 0x1, 0x2, 0x2] else [0x4, 0x1, 0x2])))

/-- R133, R136: an admitted write presented to an idle block runs to its response, and the bytes it hands
to THR are the lent buffer's in increasing index order: all of them on success, the first `k + 1` on a fault
at byte `k`, where `i` stands. The run is that of this one command: it begins with its `Cmd` and ends with
its `Rsp`. The lent buffer is unchanged (log entries 3 and 21 for how it is held). -/
def Obligations.WriteSendsBufferInOrder : Prop :=
  ∀ (s : State) cmd rest handle iasz sadr len iaddr (bytes : List Byte), s.phase = .idle →
    s.port = cmd :: rest →
    decodeCommand cmd.word = .ok (.masterWrite handle iasz sadr len iaddr) →
    (handle = 1 ∨ handle = 2) → len ≠ 0 →
    (s.slot (channelOfHandle handle)).initDone = true →
    bytes.length = len.toNat → (∀ k, cmd.lent.read k = bytes[k]?) →
    ∃ k, ∃ t : State, ∃ es w, Host.Core.run core k s = .next t ∧ t.phase = .idle ∧ t.port = rest ∧
      t.trace = s.trace ++ .cmd cmd.word :: es ++ [.rsp w] ∧ t.buffer = cmd.lent ∧
      (w = len.setWidth 32 ∧ thrWords es = bytes.map (fun x => x.setWidth 32) ∨
       (w = Config.eNoAck ∨ w = Config.eTimeout) ∧ t.i.toNat < len.toNat ∧
         (thrWords es).length = t.i.toNat + 1 ∧
         thrWords es = (bytes.take (t.i.toNat + 1)).map (fun x => x.setWidth 32))

/-! ### MASTER_READ -/

/-- R26, R140: an admitted read is latched and its first event is the MMR write. That `op` is latched and
that `i` is 0 from here on are log entries 7 and 11. -/
def Obligations.ReadAccepted : Prop :=
  ∀ handle iasz sadr len iaddr s, s.phase = .idle → (handle = 1 ∨ handle = 2) → len ≠ 0 →
    (s.slot (channelOfHandle handle)).initDone = true →
    exec (.masterRead handle iasz sadr len iaddr) s =
      .next { s with op := 3, c := (handle - 1).setWidth 1, sadr := sadr, iasz := iasz,
                     iaddr := iaddr, len := len, rd := 1, i := 0, phase := .rMmr }

/-- R141, R143: the set-up of a read: MMR, IADR, then START alone for one byte or START and STOP in one
write for more. -/
def Obligations.ReadSetUp : Prop :=
  ∀ handle iasz sadr len iaddr s,
    (s.phase = .rMmr → ∃ t, exec (.masterRead handle iasz sadr len iaddr) s = .next t ∧
      t.phase = .rIadr ∧ (t.blk s.c).mmr = mmrWord s.sadr s.iasz s.rd ∧
      t.trace = s.trace ++ [.regWrite s.c .mmr (mmrWord s.sadr s.iasz s.rd)]) ∧
    (s.phase = .rIadr → ∃ t, exec (.masterRead handle iasz sadr len iaddr) s = .next t ∧
      t.phase = .rStart ∧ (t.blk s.c).iadr = s.iaddr.setWidth 32 ∧
      t.trace = s.trace ++ [.regWrite s.c .iadr (s.iaddr.setWidth 32)]) ∧
    (s.phase = .rStart → exec (.masterRead handle iasz sadr len iaddr) s =
      .next { s with i := 0, n := 0, phase := .rPoll,
                     trace := s.trace ++
                       [.regWrite s.c .cr (if s.len = 1 then 0x00000001 else 0x00000003)] })

/-- R144, R145, R147, R148: one byte of a read: RHR is read, its low byte kept and stored at `i`; after
the last byte a read of more than one byte writes STOP again and a read of one byte answers 1 at once. -/
def Obligations.ReadByte : Prop :=
  ∀ handle iasz sadr len iaddr s,
    (s.phase = .rRhr → ∃ t, exec (.masterRead handle iasz sadr len iaddr) s = .next t ∧
      t.phase = .rBuf ∧ t.b = s.rhrAnswer.setWidth 8 ∧ t.rhrAnswers = s.rhrAnswers.tail ∧
      t.trace = s.trace ++ [.regRead s.c .rhr s.rhrAnswer]) ∧
    (s.phase = .rBuf → s.i.toNat < s.len.toNat →
      ∃ t, exec (.masterRead handle iasz sadr len iaddr) s = .next t ∧
        t.buffer.read s.i.toNat = some s.b ∧ t.trace = s.trace ++ [.bufWrite s.i.toNat s.b] ∧
        (if s.i.toNat + 1 < s.len.toNat then
           t.phase = .rPoll ∧ t.n = 0 ∧ t.i.toNat = s.i.toNat + 1
         else if s.len = 1 then t.phase = .rsp ∧ t.result = 1
         else t.phase = .rLstop)) ∧
    (s.phase = .rLstop → exec (.masterRead handle iasz sadr len iaddr) s =
      .next { s with result := s.len.setWidth 32, phase := .rsp,
                     trace := s.trace ++ [.regWrite s.c .cr 0x00000002] })

/-- R121, R140: in a wait, `MASTER_READ` does what `WAIT_FOR` with RXRDY does. -/
def Obligations.ReadCallsWaitFor : Prop :=
  ∀ handle iasz sadr len iaddr s, (s.phase = .rPoll ∨ s.phase = .rDelay) →
    exec (.masterRead handle iasz sadr len iaddr) s = exec (.waitFor .rxrdy) s

/-- What one event of a read leaves unchanged (R36, R22, R39): CWGR, THR, the slots, the gates and the
other channel always; every buffer byte but the one at `i` in `R_BUF`; each of MMR, IADR, `i`, `n`, `b`,
`result` and the oracle's answers but in the phase that uses it (`i` at acceptance: log entry 11). -/
def Obligations.ReadFrame : Prop :=
  ∀ handle iasz sadr len iaddr s t, exec (.masterRead handle iasz sadr len iaddr) s = .next t →
    t.per = s.per ∧ t.port = s.port ∧
    (s.phase ≠ .rBuf → ∀ k, t.buffer.read k = s.buffer.read k) ∧
    (∀ k, k ≠ s.i.toNat → t.buffer.read k = s.buffer.read k) ∧
    (∀ c, t.slot c = s.slot c ∧ t.gate c = s.gate c ∧ (t.blk c).cwgr = (s.blk c).cwgr ∧
      (t.blk c).thr = (s.blk c).thr) ∧
    (∀ c, c ≠ s.c → t.blk c = s.blk c) ∧
    (s.phase ≠ .rMmr → (t.blk s.c).mmr = (s.blk s.c).mmr) ∧
    (s.phase ≠ .rIadr → (t.blk s.c).iadr = (s.blk s.c).iadr) ∧
    (s.phase ≠ .idle → t.op = s.op ∧ t.c = s.c ∧ t.sadr = s.sadr ∧ t.iasz = s.iasz ∧
      t.iaddr = s.iaddr ∧ t.len = s.len ∧ t.rd = s.rd) ∧
    (s.phase ≠ .idle → s.phase ≠ .rStart → s.phase ≠ .rBuf → t.i = s.i) ∧
    (s.phase ≠ .rStart → s.phase ≠ .rBuf → s.phase ≠ .rPoll → t.n = s.n) ∧
    (s.phase ≠ .rRhr → t.b = s.b ∧ t.rhrAnswers = s.rhrAnswers) ∧
    (s.phase ≠ .rPoll → t.srAnswers = s.srAnswers) ∧
    (s.phase ≠ .rPoll → s.phase ≠ .rRhr → t.draws = s.draws) ∧
    (s.phase ≠ .rPoll → s.phase ≠ .rBuf → s.phase ≠ .rLstop → t.result = s.result)

/-- R140, R25: an admitted read presented to an idle block runs, within the bound of R25, to exactly the
state the pseudocode of R140 gives. -/
def Obligations.ReadRefinesPseudocode : Prop :=
  ∀ (s : State) cmd rest handle iasz sadr len iaddr, s.phase = .idle → s.port = cmd :: rest →
    decodeCommand cmd.word = .ok (.masterRead handle iasz sadr len iaddr) →
    (handle = 1 ∨ handle = 2) → len ≠ 0 →
    (s.slot (channelOfHandle handle)).initDone = true →
    ∃ k, k ≤ 6 + len.toNat * (2 * Config.pollMax + 1) ∧
      Host.Core.run core k s =
        .next (readWhole ((s.accept cmd rest).latchTransaction 3 handle iasz sadr len iaddr))

/-- R161 rows `read`, R142, R143, R145, R146, R147: every admitted read ends in `IDLE`, with the CR words
of its row: never MSEN; on success START alone for one byte, START with STOP and then STOP for more; on a
fault the forced STOP, which is the event right before the response, and no RHR read in the failing
iteration. -/
def Obligations.ReadFraming : Prop :=
  ∀ (s : State) cmd rest handle iasz sadr len iaddr, s.phase = .idle → s.port = cmd :: rest →
    decodeCommand cmd.word = .ok (.masterRead handle iasz sadr len iaddr) →
    (handle = 1 ∨ handle = 2) → len ≠ 0 →
    (s.slot (channelOfHandle handle)).initDone = true →
    ∃ k, ∃ t : State, ∃ es, Host.Core.run core k s = .next t ∧ t.phase = .idle ∧
      t.trace = s.trace ++ es ∧
      thrWords es = [] ∧
      ((∃ pre, es = pre ++ [.rsp (len.setWidth 32)] ∧ (rhrWords es).length = len.toNat ∧
          (bufWrites es).length = len.toNat ∧
          crWords es = (if len = 1 then [0x1] else [0x3, 0x2])) ∨
       (∃ pre v code j, es = pre ++ [.regRead t.c .sr v, .regWrite t.c .cr 0x2, .rsp code] ∧
          (code = Config.eNoAck ∧ nackSet v = true ∨
            code = Config.eTimeout ∧ nackSet v = false ∧ readySet .rxrdy v = false) ∧
          j < len.toNat ∧ (rhrWords es).length = j ∧ (bufWrites es).length = j ∧
          crWords es = (if len = 1 then [0x1, 0x2] else [0x3, 0x2])))

/-- R148, with R39 and R144: an admitted read presented to an idle block runs to its response, and the bytes
it stores are the low bytes of RHR's answers, at the indices from 0 up in order: `len` of them on success, `k`
on a fault at byte `k`, where `i` stands; the indices it reached hold them at the end and every other index
holds what it held. The run is that of this one command: it begins with its `Cmd` and ends with its `Rsp`
(log entries 3 and 21 for how the buffer is held). -/
def Obligations.ReadFillsBufferInOrder : Prop :=
  ∀ (s : State) cmd rest handle iasz sadr len iaddr, s.phase = .idle → s.port = cmd :: rest →
    decodeCommand cmd.word = .ok (.masterRead handle iasz sadr len iaddr) →
    (handle = 1 ∨ handle = 2) → len ≠ 0 →
    (s.slot (channelOfHandle handle)).initDone = true →
    ∃ k, ∃ t : State, ∃ es w, Host.Core.run core k s = .next t ∧ t.phase = .idle ∧ t.port = rest ∧
      t.trace = s.trace ++ .cmd cmd.word :: es ++ [.rsp w] ∧
      (w = len.setWidth 32 ∧ (rhrWords es).length = len.toNat ∨
       (w = Config.eNoAck ∨ w = Config.eTimeout) ∧ t.i.toNat < len.toNat ∧
         (rhrWords es).length = t.i.toNat) ∧
      bufWrites es = ((rhrWords es).map fun v => v.setWidth 8).mapIdx (fun j x => (j, x)) ∧
      (∀ j, t.buffer.read j =
        (match (rhrWords es)[j]? with
         | some v => some (v.setWidth 8)
         | none => cmd.lent.read j))

/-! ### CR words -/

/-- R155, R157, R158, R159: each of the four words the block writes is one write of CR on the latched
channel and changes nothing else of the state. -/
def Obligations.CrWordsWritten : Prop :=
  ∀ s,
    exec .crMsen s = .next { s with trace := s.trace ++ [.regWrite s.c .cr 0x00000004] } ∧
    exec .crStart s = .next { s with trace := s.trace ++ [.regWrite s.c .cr 0x00000001] } ∧
    exec .crStop s = .next { s with trace := s.trace ++ [.regWrite s.c .cr 0x00000002] } ∧
    exec .crStartStop s = .next { s with trace := s.trace ++ [.regWrite s.c .cr 0x00000003] }

/-- R156, U15: `CR.MSDIS` is refused in every state. -/
def Obligations.MasterDisableRefused : Prop :=
  ∀ s, exec .crMsdis s = .refused .masterDisableNeverWritten

/-! ### Reset and invariants -/

/-- R42, R190, R192: what reset leaves, as far as the spec gives it: `IDLE`, no slot initialised, gates
unknown, no event; so it meets the launch premise `LaunchReset` of R194. -/
def Obligations.ResetValues : Prop :=
  core.reset = State.reset ∧ State.reset.phase = .idle ∧ (∀ c, (State.reset.slot c).initDone = false) ∧
  (∀ c, State.reset.gate c = .unknown) ∧ State.reset.trace = [] ∧ State.reset.LaunchReset

/-- The invariant holds at reset. -/
def Obligations.ResetMeetsInvariant : Prop := State.reset.Inv

/-- R43: every step keeps the invariant: the latches agree with the phase, `i` is below `len` in every phase
of a transaction (from its admission on by log entry 11), `n` is in range on entry to a wait's phases, the
result in `RSP` is one of those listed, an initialised channel has its clock on and its divisor in CWGR,
and the buffers are canonical. -/
def Obligations.StepKeepsInvariant : Prop :=
  ∀ s t, s.Inv → step s = .next t → t.Inv

/-- Under the invariant the block is never stuck: a step never faults, and the only step refused is the
acceptance of a command (R25, R61). -/
def Obligations.NeverStuck : Prop :=
  ∀ s, s.Inv → (∃ t, step s = .next t) ∨ (s.phase = .idle ∧ s.port ≠ [] ∧ ∃ why, step s = .refused why)

/-- R25: every command ends: from any state of a run the block is idle again within the bound. -/
def Obligations.EveryCommandEnds : Prop :=
  ∀ s : State, s.Inv → ∃ k, ∃ t : State, k ≤ 8 + s.len.toNat * (2 * Config.pollMax + 1) ∧
    Host.Core.run core k s = .next t ∧ t.phase = .idle

/-- R36, R56 to R59, R97, R160: every event the block performs is legal: only the accesses of the table
of R36, only four CR words, zeros in every reserved bit, indices below the largest length. -/
def Obligations.TraceStaysLegal : Prop :=
  ∀ s t, s.traceLegal = true → step s = .next t → t.traceLegal = true

/-- R160: the block writes to CR the four words and no other. -/
def Obligations.OnlyFourCrWords : Prop :=
  State.reset.trace = [] ∧
  ∀ s t, (∀ v ∈ crWords s.trace, v = 0x1 ∨ v = 0x2 ∨ v = 0x3 ∨ v = 0x4) → step s = .next t →
    (∀ v ∈ crWords t.trace, v = 0x1 ∨ v = 0x2 ∨ v = 0x3 ∨ v = 0x4)

/-- R162: in every transaction that responds `E_NOACK` or `E_TIMEOUT`, the event before the response is
the STOP write. -/
def Obligations.FailedTransactionEndsInStop : Prop :=
  State.reset.faultsFramed = true ∧
  ∀ s t, s.faultsFramed = true → step s = .next t → t.faultsFramed = true

/-- R21, R43: `slot[c].init_done` never goes from 1 to 0, and only the CWGR row of an `INIT` of the
channel changes the slot. -/
def Obligations.InitDoneNeverCleared : Prop :=
  ∀ s t c, step s = .next t →
    ((s.slot c).initDone = true → (t.slot c).initDone = true) ∧
    (t.slot c ≠ s.slot c → s.phase = .iCwgr ∧ c = s.c)

/-- R197: the clock of a channel is on whenever the block accesses one of its registers. -/
def Obligations.ClockOnBeforeRegisterAccess : Prop :=
  ∀ s t c r v, s.Inv → step s = .next t →
    (t.trace = s.trace ++ [.regWrite c r v] ∨ t.trace = s.trace ++ [.regRead c r v]) →
    s.gate c = .enabled

/-- R22, R42: no later command reads a latch or counter an earlier one left: states that differ only in
values that are dead in their phase step alike. -/
def Obligations.DeadLatchesUnread : Prop :=
  ∀ s t, s.liveView = t.liveView →
    (match step s, step t with
     | .next s', .next t' => s'.liveView = t'.liveView
     | .fault a, .fault b => a = b
     | .refused a, .refused b => a = b
     | _, _ => False)

/-- R61: whether the Sequencer has a step never depends on the oracle. -/
def Obligations.OracleNeverBlocks : Prop :=
  ∀ s sr rhr d, s.Inv →
    ((∃ t, step s = .next t) ↔
      (∃ t, step { s with srAnswers := sr, rhrAnswers := rhr, draws := d } = .next t))

/-- R114, R67: a step touches the slot, the registers and the gate of the latched channel only. -/
def Obligations.OtherChannelUntouched : Prop :=
  ∀ s t c, step s = .next t → (s.phase = .idle ∨ c ≠ s.c) →
    t.slot c = s.slot c ∧ t.blk c = s.blk c ∧ t.gate c = s.gate c
end

