-- ==== Sys2Proof/Laws/Encoding.lean ====
section
/-! SUPPORT. Placing fields in a command word and reading them back: the three lemmas from which every
field of an encoded word follows (R81, R82), and the words of the two formats. -/

namespace Sys2Proof

/-- Bit `i` of a placed field. -/
theorem getLsbD_place {width : Nat} (v : BitVec width) (lo i : Nat) :
    (place v lo).getLsbD i = (decide (i < 64) && decide (lo ≤ i) && v.getLsbD (i - lo)) := by
  unfold place
  by_cases h : i < 64 <;> by_cases h' : lo ≤ i <;> simp [h, h']

theorem field_or {w : Nat} (x y : BitVec w) (lo width : Nat) :
    field (x ||| y) lo width = field x lo width ||| field y lo width := by
  unfold field; ext i h; simp

/-- A field reads back as it was placed. -/
theorem field_place_self {width : Nat} (v : BitVec width) (lo : Nat) (h : lo + width ≤ 64) :
    field (place v lo) lo width = v := by
  apply BitVec.eq_of_getLsbD_eq
  intro i hi
  simp only [field, BitVec.getLsbD_extractLsb', getLsbD_place, hi]
  simp; omega

/-- A placed field does not show in any bits but its own. -/
theorem field_place_disjoint {width : Nat} (v : BitVec width) (lo lo' width' : Nat)
    (h : lo' + width' ≤ lo ∨ lo + width ≤ lo') : field (place v lo) lo' width' = 0 := by
  apply BitVec.eq_of_getLsbD_eq
  intro i hi
  simp only [field, BitVec.getLsbD_extractLsb', getLsbD_place, hi]
  rcases h with h | h
  · simp; intros; omega
  · have : v.getLsbD (lo' + i - lo) = false := BitVec.getLsbD_of_ge _ _ (by omega)
    simp [this]

/-- Every field of an `INIT` word (R81). -/
theorem fields_encodeInit (chsel : BitVec 8) (clkper : Word) :
    field (encodeInit chsel clkper) 0 2 = 1 ∧ field (encodeInit chsel clkper) 2 8 = chsel ∧
      field (encodeInit chsel clkper) 10 22 = 0 ∧ field (encodeInit chsel clkper) 32 32 = clkper := by
  simp only [encodeInit, field_or]
  refine ⟨?_, ?_, ?_, ?_⟩ <;>
    simp (disch := omega) [field_place_self, field_place_disjoint]

/-- Every field of a transaction word (R82). -/
theorem fields_encodeTransaction (op handle iasz : BitVec 2) (sadr : BitVec 10) (len : BitVec 16)
    (iaddr : BitVec 24) :
    field (encodeTransaction op handle iasz sadr len iaddr) 0 2 = op ∧
      field (encodeTransaction op handle iasz sadr len iaddr) 2 2 = handle ∧
      field (encodeTransaction op handle iasz sadr len iaddr) 4 2 = iasz ∧
      field (encodeTransaction op handle iasz sadr len iaddr) 6 10 = sadr ∧
      field (encodeTransaction op handle iasz sadr len iaddr) 16 16 = len ∧
      field (encodeTransaction op handle iasz sadr len iaddr) 32 24 = iaddr ∧
      field (encodeTransaction op handle iasz sadr len iaddr) 56 8 = 0 := by
  simp only [encodeTransaction, field_or]
  refine ⟨?_, ?_, ?_, ?_, ?_, ?_, ?_⟩ <;>
    simp (disch := omega) [field_place_self, field_place_disjoint]

/-- Bits under a mask: `w &&& mask = pattern` says each masked bit of `w` is the pattern's. -/
theorem and_eq_iff_bits (w mask pattern : CmdWord) :
    w &&& mask = pattern ↔ ∀ k < 64, (w.getLsbD k && mask.getLsbD k) = pattern.getLsbD k := by
  constructor
  · rintro rfl k _; simp
  · intro h; apply BitVec.eq_of_getLsbD_eq; intro k hk; rw [BitVec.getLsbD_and]; exact h k hk

/-- A field equals a value bit by bit. -/
theorem field_eq_iff_bits (w : CmdWord) (lo width : Nat) (v : BitVec width) :
    field w lo width = v ↔ ∀ k < width, w.getLsbD (lo + k) = v.getLsbD k := by
  unfold field
  constructor
  · rintro rfl k hk; simp [hk]
  · intro h; apply BitVec.eq_of_getLsbD_eq; intro k hk; simp [hk, h k hk]

/-- The row of `INIT` in R95: mask and match say `OP = 1` and bits 31 to 10 zero. -/
theorem initRow_iff (w : CmdWord) :
    w &&& 0x00000000FFFFFC03 = 0x0000000000000001 ↔ field w 0 2 = 1 ∧ field w 10 22 = 0 := by
  rw [and_eq_iff_bits, field_eq_iff_bits, field_eq_iff_bits]
  constructor
  · intro h
    refine ⟨fun k hk => ?_, fun k hk => ?_⟩
    · have := h (0 + k) (by omega); interval_cases k <;> simpa using this
    · have := h (10 + k) (by omega); interval_cases k <;> simpa using this
  · rintro ⟨h0, h1⟩ k hk
    by_cases a : k < 2
    · have := h0 k a; interval_cases k <;> simpa using this
    · by_cases b : 10 ≤ k ∧ k < 32
      · have := h1 (k - 10) (by omega); obtain ⟨b1, b2⟩ := b; interval_cases k <;> simpa using this
      · have : 2 ≤ k ∧ k < 10 ∨ 32 ≤ k ∧ k < 64 := by omega
        rcases this with ⟨c1, c2⟩ | ⟨c1, c2⟩ <;> interval_cases k <;> simp

/-- The rows of the transactions in R95: mask and match say `OP` and bits 63 to 56 zero. -/
theorem transactionRow_iff (w : CmdWord) (op : BitVec 2) :
    w &&& 0xFF00000000000003 = op.setWidth 64 ↔ field w 0 2 = op ∧ field w 56 8 = 0 := by
  rw [and_eq_iff_bits, field_eq_iff_bits, field_eq_iff_bits]
  constructor
  · intro h
    refine ⟨fun k hk => ?_, fun k hk => ?_⟩
    · have := h (0 + k) (by omega); interval_cases k <;> simpa using this
    · have := h (56 + k) (by omega); interval_cases k <;> simpa using this
  · rintro ⟨h0, h1⟩ k hk
    by_cases a : k < 2
    · have := h0 k a; interval_cases k <;> simpa using this
    · by_cases b : 56 ≤ k
      · have := h1 (k - 56) (by omega); interval_cases k <;> simpa using this
      · have c : 2 ≤ k := by omega
        have d : k < 56 := by omega
        interval_cases k <;> simp

end Sys2Proof
end

