-- ==== Sys2Proof/Laws/Memory.lean ====
section
/-! SUPPORT. The host buffer as memory: read after write, and every operation keeps the canonical form. -/

namespace Sys2Proof.Machine

/-- A byte reads back as it was written. -/
@[simp] theorem Memory.read_write_self (m : Memory) (k : Nat) (x : Byte) :
    (Memory.write m k x).read k = some x := by
  induction m with
  | nil => simp [Memory.write, Memory.read]
  | cons p rest ih =>
    obtain ⟨l, y⟩ := p
    unfold Memory.write
    split
    · simp [Memory.read]
    · split
      · simp [Memory.read]
      · simp_all [Memory.read, eq_comm]

theorem Memory.read_of_lt {m : Memory} {k l : Nat} {y : Byte} (hwf : Memory.wf ((l, y) :: m) = true)
    (h : k ≤ l) : Memory.read m k = none := by
  induction m generalizing l y with
  | nil => rfl
  | cons p rest ih =>
    obtain ⟨l', y'⟩ := p
    simp only [Memory.wf, Bool.and_eq_true, decide_eq_true_eq] at hwf
    simp only [Memory.read]
    rw [if_neg (by omega)]
    exact ih hwf.2 (by omega)

/-- A write leaves every other index alone. -/
theorem Memory.read_write_ne (m : Memory) {j k : Nat} (x : Byte) (h : j ≠ k) :
    (Memory.write m k x).read j = m.read j := by
  induction m with
  | nil => simp [Memory.write, Memory.read, Ne.symm h]
  | cons p rest ih =>
    obtain ⟨l, y⟩ := p
    unfold Memory.write
    split
    · simp [Memory.read, Ne.symm h]
    · split
      · subst_vars; simp [Memory.read, Ne.symm h]
      · simp [Memory.read, ih]

theorem Memory.wf_tail {p : Host.Cell} {m : Memory} (h : Memory.wf (p :: m) = true) :
    Memory.wf m = true := by
  cases m with
  | nil => rfl
  | cons q rest => simp only [Memory.wf, Bool.and_eq_true] at h; exact h.2

theorem Memory.wf_cons {k l : Nat} {x y : Byte} {m : Memory} (h : Memory.wf ((l, y) :: m) = true)
    (hk : k < l) : Memory.wf ((k, x) :: (l, y) :: m) = true := by
  simp [Memory.wf, hk, h]

theorem Memory.wf_cons_write {l : Nat} {y : Byte} {m : Memory} {k : Nat} (x : Byte)
    (h : Memory.wf ((l, y) :: m) = true) (hk : l < k) :
    Memory.wf ((l, y) :: Memory.write m k x) = true := by
  induction m generalizing l y with
  | nil => simp [Memory.write, Memory.wf, hk]
  | cons p rest ih =>
    obtain ⟨l', y'⟩ := p
    have h' := h
    simp only [Memory.wf, Bool.and_eq_true, decide_eq_true_eq] at h'
    unfold Memory.write
    split
    · exact Memory.wf_cons (Memory.wf_cons (Memory.wf_tail h) ‹_›) hk
    · split
      · subst_vars
        cases rest with
        | nil => simp [Memory.wf, h'.1]
        | cons q r => obtain ⟨l2, y2⟩ := q; simp_all [Memory.wf]
      · exact Memory.wf_cons (ih h'.2 (by omega)) h'.1

/-- A write keeps the canonical form. -/
theorem Memory.wf_write {m : Memory} (k : Nat) (x : Byte) (h : m.wf = true) :
    (Memory.write m k x).wf = true := by
  cases m with
  | nil => rfl
  | cons p rest =>
    obtain ⟨l, y⟩ := p
    unfold Memory.write
    split
    · exact Memory.wf_cons h ‹_›
    · split
      · subst_vars
        cases rest with
        | nil => rfl
        | cons q r => obtain ⟨l2, y2⟩ := q; simp_all [Memory.wf]
      · exact Memory.wf_cons_write x h (by omega)

/-- The buffer at reset is in canonical form. -/
theorem reset_buffer_wf : State.reset.buffer.wf = true := rfl

end Sys2Proof.Machine
end

