-- ==== Sys2Proof/Laws/State.lean ====
section
/-! SUPPORT. One lemma per field for each operation that updates the state: the fields it leaves alone,
and the value of the ones it writes. -/

namespace Sys2Proof.Machine

variable (s : State)

/-! ### emit -/

@[simp] theorem emit_op (e : Event) : (s.emit e).op = s.op := rfl
@[simp] theorem emit_c (e : Event) : (s.emit e).c = s.c := rfl
@[simp] theorem emit_per (e : Event) : (s.emit e).per = s.per := rfl
@[simp] theorem emit_sadr (e : Event) : (s.emit e).sadr = s.sadr := rfl
@[simp] theorem emit_iasz (e : Event) : (s.emit e).iasz = s.iasz := rfl
@[simp] theorem emit_iaddr (e : Event) : (s.emit e).iaddr = s.iaddr := rfl
@[simp] theorem emit_len (e : Event) : (s.emit e).len = s.len := rfl
@[simp] theorem emit_rd (e : Event) : (s.emit e).rd = s.rd := rfl
@[simp] theorem emit_phase (e : Event) : (s.emit e).phase = s.phase := rfl
@[simp] theorem emit_i (e : Event) : (s.emit e).i = s.i := rfl
@[simp] theorem emit_n (e : Event) : (s.emit e).n = s.n := rfl
@[simp] theorem emit_b (e : Event) : (s.emit e).b = s.b := rfl
@[simp] theorem emit_result (e : Event) : (s.emit e).result = s.result := rfl
@[simp] theorem emit_slot0 (e : Event) : (s.emit e).slot0 = s.slot0 := rfl
@[simp] theorem emit_slot1 (e : Event) : (s.emit e).slot1 = s.slot1 := rfl
@[simp] theorem emit_blk0 (e : Event) : (s.emit e).blk0 = s.blk0 := rfl
@[simp] theorem emit_blk1 (e : Event) : (s.emit e).blk1 = s.blk1 := rfl
@[simp] theorem emit_gate0 (e : Event) : (s.emit e).gate0 = s.gate0 := rfl
@[simp] theorem emit_gate1 (e : Event) : (s.emit e).gate1 = s.gate1 := rfl
@[simp] theorem emit_buffer (e : Event) : (s.emit e).buffer = s.buffer := rfl
@[simp] theorem emit_port (e : Event) : (s.emit e).port = s.port := rfl
@[simp] theorem emit_srAnswers (e : Event) : (s.emit e).srAnswers = s.srAnswers := rfl
@[simp] theorem emit_rhrAnswers (e : Event) : (s.emit e).rhrAnswers = s.rhrAnswers := rfl
@[simp] theorem emit_draws (e : Event) : (s.emit e).draws = s.draws := rfl
@[simp] theorem emit_trace (e : Event) : (s.emit e).trace = s.trace ++ [e] := rfl

/-! ### goto -/

@[simp] theorem goto_op (p : Phase) : (s.goto p).op = s.op := rfl
@[simp] theorem goto_c (p : Phase) : (s.goto p).c = s.c := rfl
@[simp] theorem goto_per (p : Phase) : (s.goto p).per = s.per := rfl
@[simp] theorem goto_sadr (p : Phase) : (s.goto p).sadr = s.sadr := rfl
@[simp] theorem goto_iasz (p : Phase) : (s.goto p).iasz = s.iasz := rfl
@[simp] theorem goto_iaddr (p : Phase) : (s.goto p).iaddr = s.iaddr := rfl
@[simp] theorem goto_len (p : Phase) : (s.goto p).len = s.len := rfl
@[simp] theorem goto_rd (p : Phase) : (s.goto p).rd = s.rd := rfl
@[simp] theorem goto_phase (p : Phase) : (s.goto p).phase = p := rfl
@[simp] theorem goto_i (p : Phase) : (s.goto p).i = s.i := rfl
@[simp] theorem goto_n (p : Phase) : (s.goto p).n = s.n := rfl
@[simp] theorem goto_b (p : Phase) : (s.goto p).b = s.b := rfl
@[simp] theorem goto_result (p : Phase) : (s.goto p).result = s.result := rfl
@[simp] theorem goto_slot0 (p : Phase) : (s.goto p).slot0 = s.slot0 := rfl
@[simp] theorem goto_slot1 (p : Phase) : (s.goto p).slot1 = s.slot1 := rfl
@[simp] theorem goto_blk0 (p : Phase) : (s.goto p).blk0 = s.blk0 := rfl
@[simp] theorem goto_blk1 (p : Phase) : (s.goto p).blk1 = s.blk1 := rfl
@[simp] theorem goto_gate0 (p : Phase) : (s.goto p).gate0 = s.gate0 := rfl
@[simp] theorem goto_gate1 (p : Phase) : (s.goto p).gate1 = s.gate1 := rfl
@[simp] theorem goto_buffer (p : Phase) : (s.goto p).buffer = s.buffer := rfl
@[simp] theorem goto_port (p : Phase) : (s.goto p).port = s.port := rfl
@[simp] theorem goto_srAnswers (p : Phase) : (s.goto p).srAnswers = s.srAnswers := rfl
@[simp] theorem goto_rhrAnswers (p : Phase) : (s.goto p).rhrAnswers = s.rhrAnswers := rfl
@[simp] theorem goto_draws (p : Phase) : (s.goto p).draws = s.draws := rfl
@[simp] theorem goto_trace (p : Phase) : (s.goto p).trace = s.trace := rfl

/-! ### setSlot -/

@[simp] theorem setSlot_op (k : Channel) (v : Slot) : (s.setSlot k v).op = s.op := by unfold State.setSlot; split <;> rfl
@[simp] theorem setSlot_c (k : Channel) (v : Slot) : (s.setSlot k v).c = s.c := by unfold State.setSlot; split <;> rfl
@[simp] theorem setSlot_per (k : Channel) (v : Slot) : (s.setSlot k v).per = s.per := by unfold State.setSlot; split <;> rfl
@[simp] theorem setSlot_sadr (k : Channel) (v : Slot) : (s.setSlot k v).sadr = s.sadr := by unfold State.setSlot; split <;> rfl
@[simp] theorem setSlot_iasz (k : Channel) (v : Slot) : (s.setSlot k v).iasz = s.iasz := by unfold State.setSlot; split <;> rfl
@[simp] theorem setSlot_iaddr (k : Channel) (v : Slot) : (s.setSlot k v).iaddr = s.iaddr := by unfold State.setSlot; split <;> rfl
@[simp] theorem setSlot_len (k : Channel) (v : Slot) : (s.setSlot k v).len = s.len := by unfold State.setSlot; split <;> rfl
@[simp] theorem setSlot_rd (k : Channel) (v : Slot) : (s.setSlot k v).rd = s.rd := by unfold State.setSlot; split <;> rfl
@[simp] theorem setSlot_phase (k : Channel) (v : Slot) : (s.setSlot k v).phase = s.phase := by unfold State.setSlot; split <;> rfl
@[simp] theorem setSlot_i (k : Channel) (v : Slot) : (s.setSlot k v).i = s.i := by unfold State.setSlot; split <;> rfl
@[simp] theorem setSlot_n (k : Channel) (v : Slot) : (s.setSlot k v).n = s.n := by unfold State.setSlot; split <;> rfl
@[simp] theorem setSlot_b (k : Channel) (v : Slot) : (s.setSlot k v).b = s.b := by unfold State.setSlot; split <;> rfl
@[simp] theorem setSlot_result (k : Channel) (v : Slot) : (s.setSlot k v).result = s.result := by unfold State.setSlot; split <;> rfl
@[simp] theorem setSlot_blk0 (k : Channel) (v : Slot) : (s.setSlot k v).blk0 = s.blk0 := by unfold State.setSlot; split <;> rfl
@[simp] theorem setSlot_blk1 (k : Channel) (v : Slot) : (s.setSlot k v).blk1 = s.blk1 := by unfold State.setSlot; split <;> rfl
@[simp] theorem setSlot_gate0 (k : Channel) (v : Slot) : (s.setSlot k v).gate0 = s.gate0 := by unfold State.setSlot; split <;> rfl
@[simp] theorem setSlot_gate1 (k : Channel) (v : Slot) : (s.setSlot k v).gate1 = s.gate1 := by unfold State.setSlot; split <;> rfl
@[simp] theorem setSlot_buffer (k : Channel) (v : Slot) : (s.setSlot k v).buffer = s.buffer := by unfold State.setSlot; split <;> rfl
@[simp] theorem setSlot_port (k : Channel) (v : Slot) : (s.setSlot k v).port = s.port := by unfold State.setSlot; split <;> rfl
@[simp] theorem setSlot_srAnswers (k : Channel) (v : Slot) : (s.setSlot k v).srAnswers = s.srAnswers := by unfold State.setSlot; split <;> rfl
@[simp] theorem setSlot_rhrAnswers (k : Channel) (v : Slot) : (s.setSlot k v).rhrAnswers = s.rhrAnswers := by unfold State.setSlot; split <;> rfl
@[simp] theorem setSlot_draws (k : Channel) (v : Slot) : (s.setSlot k v).draws = s.draws := by unfold State.setSlot; split <;> rfl
@[simp] theorem setSlot_trace (k : Channel) (v : Slot) : (s.setSlot k v).trace = s.trace := by unfold State.setSlot; split <;> rfl

/-! ### setBlk -/

@[simp] theorem setBlk_op (k : Channel) (v : RegBlock) : (s.setBlk k v).op = s.op := by unfold State.setBlk; split <;> rfl
@[simp] theorem setBlk_c (k : Channel) (v : RegBlock) : (s.setBlk k v).c = s.c := by unfold State.setBlk; split <;> rfl
@[simp] theorem setBlk_per (k : Channel) (v : RegBlock) : (s.setBlk k v).per = s.per := by unfold State.setBlk; split <;> rfl
@[simp] theorem setBlk_sadr (k : Channel) (v : RegBlock) : (s.setBlk k v).sadr = s.sadr := by unfold State.setBlk; split <;> rfl
@[simp] theorem setBlk_iasz (k : Channel) (v : RegBlock) : (s.setBlk k v).iasz = s.iasz := by unfold State.setBlk; split <;> rfl
@[simp] theorem setBlk_iaddr (k : Channel) (v : RegBlock) : (s.setBlk k v).iaddr = s.iaddr := by unfold State.setBlk; split <;> rfl
@[simp] theorem setBlk_len (k : Channel) (v : RegBlock) : (s.setBlk k v).len = s.len := by unfold State.setBlk; split <;> rfl
@[simp] theorem setBlk_rd (k : Channel) (v : RegBlock) : (s.setBlk k v).rd = s.rd := by unfold State.setBlk; split <;> rfl
@[simp] theorem setBlk_phase (k : Channel) (v : RegBlock) : (s.setBlk k v).phase = s.phase := by unfold State.setBlk; split <;> rfl
@[simp] theorem setBlk_i (k : Channel) (v : RegBlock) : (s.setBlk k v).i = s.i := by unfold State.setBlk; split <;> rfl
@[simp] theorem setBlk_n (k : Channel) (v : RegBlock) : (s.setBlk k v).n = s.n := by unfold State.setBlk; split <;> rfl
@[simp] theorem setBlk_b (k : Channel) (v : RegBlock) : (s.setBlk k v).b = s.b := by unfold State.setBlk; split <;> rfl
@[simp] theorem setBlk_result (k : Channel) (v : RegBlock) : (s.setBlk k v).result = s.result := by unfold State.setBlk; split <;> rfl
@[simp] theorem setBlk_slot0 (k : Channel) (v : RegBlock) : (s.setBlk k v).slot0 = s.slot0 := by unfold State.setBlk; split <;> rfl
@[simp] theorem setBlk_slot1 (k : Channel) (v : RegBlock) : (s.setBlk k v).slot1 = s.slot1 := by unfold State.setBlk; split <;> rfl
@[simp] theorem setBlk_gate0 (k : Channel) (v : RegBlock) : (s.setBlk k v).gate0 = s.gate0 := by unfold State.setBlk; split <;> rfl
@[simp] theorem setBlk_gate1 (k : Channel) (v : RegBlock) : (s.setBlk k v).gate1 = s.gate1 := by unfold State.setBlk; split <;> rfl
@[simp] theorem setBlk_buffer (k : Channel) (v : RegBlock) : (s.setBlk k v).buffer = s.buffer := by unfold State.setBlk; split <;> rfl
@[simp] theorem setBlk_port (k : Channel) (v : RegBlock) : (s.setBlk k v).port = s.port := by unfold State.setBlk; split <;> rfl
@[simp] theorem setBlk_srAnswers (k : Channel) (v : RegBlock) : (s.setBlk k v).srAnswers = s.srAnswers := by unfold State.setBlk; split <;> rfl
@[simp] theorem setBlk_rhrAnswers (k : Channel) (v : RegBlock) : (s.setBlk k v).rhrAnswers = s.rhrAnswers := by unfold State.setBlk; split <;> rfl
@[simp] theorem setBlk_draws (k : Channel) (v : RegBlock) : (s.setBlk k v).draws = s.draws := by unfold State.setBlk; split <;> rfl
@[simp] theorem setBlk_trace (k : Channel) (v : RegBlock) : (s.setBlk k v).trace = s.trace := by unfold State.setBlk; split <;> rfl

/-! ### enableGate -/

@[simp] theorem enableGate_op (k : Channel) : (s.enableGate k).op = s.op := by unfold State.enableGate; split <;> rfl
@[simp] theorem enableGate_c (k : Channel) : (s.enableGate k).c = s.c := by unfold State.enableGate; split <;> rfl
@[simp] theorem enableGate_per (k : Channel) : (s.enableGate k).per = s.per := by unfold State.enableGate; split <;> rfl
@[simp] theorem enableGate_sadr (k : Channel) : (s.enableGate k).sadr = s.sadr := by unfold State.enableGate; split <;> rfl
@[simp] theorem enableGate_iasz (k : Channel) : (s.enableGate k).iasz = s.iasz := by unfold State.enableGate; split <;> rfl
@[simp] theorem enableGate_iaddr (k : Channel) : (s.enableGate k).iaddr = s.iaddr := by unfold State.enableGate; split <;> rfl
@[simp] theorem enableGate_len (k : Channel) : (s.enableGate k).len = s.len := by unfold State.enableGate; split <;> rfl
@[simp] theorem enableGate_rd (k : Channel) : (s.enableGate k).rd = s.rd := by unfold State.enableGate; split <;> rfl
@[simp] theorem enableGate_phase (k : Channel) : (s.enableGate k).phase = s.phase := by unfold State.enableGate; split <;> rfl
@[simp] theorem enableGate_i (k : Channel) : (s.enableGate k).i = s.i := by unfold State.enableGate; split <;> rfl
@[simp] theorem enableGate_n (k : Channel) : (s.enableGate k).n = s.n := by unfold State.enableGate; split <;> rfl
@[simp] theorem enableGate_b (k : Channel) : (s.enableGate k).b = s.b := by unfold State.enableGate; split <;> rfl
@[simp] theorem enableGate_result (k : Channel) : (s.enableGate k).result = s.result := by unfold State.enableGate; split <;> rfl
@[simp] theorem enableGate_slot0 (k : Channel) : (s.enableGate k).slot0 = s.slot0 := by unfold State.enableGate; split <;> rfl
@[simp] theorem enableGate_slot1 (k : Channel) : (s.enableGate k).slot1 = s.slot1 := by unfold State.enableGate; split <;> rfl
@[simp] theorem enableGate_blk0 (k : Channel) : (s.enableGate k).blk0 = s.blk0 := by unfold State.enableGate; split <;> rfl
@[simp] theorem enableGate_blk1 (k : Channel) : (s.enableGate k).blk1 = s.blk1 := by unfold State.enableGate; split <;> rfl
@[simp] theorem enableGate_buffer (k : Channel) : (s.enableGate k).buffer = s.buffer := by unfold State.enableGate; split <;> rfl
@[simp] theorem enableGate_port (k : Channel) : (s.enableGate k).port = s.port := by unfold State.enableGate; split <;> rfl
@[simp] theorem enableGate_srAnswers (k : Channel) : (s.enableGate k).srAnswers = s.srAnswers := by unfold State.enableGate; split <;> rfl
@[simp] theorem enableGate_rhrAnswers (k : Channel) : (s.enableGate k).rhrAnswers = s.rhrAnswers := by unfold State.enableGate; split <;> rfl
@[simp] theorem enableGate_draws (k : Channel) : (s.enableGate k).draws = s.draws := by unfold State.enableGate; split <;> rfl
@[simp] theorem enableGate_trace (k : Channel) : (s.enableGate k).trace = s.trace := by unfold State.enableGate; split <;> rfl

/-! ### readSr -/

@[simp] theorem readSr_op (k : Channel) : (s.readSr k).op = s.op := rfl
@[simp] theorem readSr_c (k : Channel) : (s.readSr k).c = s.c := rfl
@[simp] theorem readSr_per (k : Channel) : (s.readSr k).per = s.per := rfl
@[simp] theorem readSr_sadr (k : Channel) : (s.readSr k).sadr = s.sadr := rfl
@[simp] theorem readSr_iasz (k : Channel) : (s.readSr k).iasz = s.iasz := rfl
@[simp] theorem readSr_iaddr (k : Channel) : (s.readSr k).iaddr = s.iaddr := rfl
@[simp] theorem readSr_len (k : Channel) : (s.readSr k).len = s.len := rfl
@[simp] theorem readSr_rd (k : Channel) : (s.readSr k).rd = s.rd := rfl
@[simp] theorem readSr_phase (k : Channel) : (s.readSr k).phase = s.phase := rfl
@[simp] theorem readSr_i (k : Channel) : (s.readSr k).i = s.i := rfl
@[simp] theorem readSr_n (k : Channel) : (s.readSr k).n = s.n := rfl
@[simp] theorem readSr_b (k : Channel) : (s.readSr k).b = s.b := rfl
@[simp] theorem readSr_result (k : Channel) : (s.readSr k).result = s.result := rfl
@[simp] theorem readSr_slot0 (k : Channel) : (s.readSr k).slot0 = s.slot0 := rfl
@[simp] theorem readSr_slot1 (k : Channel) : (s.readSr k).slot1 = s.slot1 := rfl
@[simp] theorem readSr_blk0 (k : Channel) : (s.readSr k).blk0 = s.blk0 := rfl
@[simp] theorem readSr_blk1 (k : Channel) : (s.readSr k).blk1 = s.blk1 := rfl
@[simp] theorem readSr_gate0 (k : Channel) : (s.readSr k).gate0 = s.gate0 := rfl
@[simp] theorem readSr_gate1 (k : Channel) : (s.readSr k).gate1 = s.gate1 := rfl
@[simp] theorem readSr_buffer (k : Channel) : (s.readSr k).buffer = s.buffer := rfl
@[simp] theorem readSr_port (k : Channel) : (s.readSr k).port = s.port := rfl
@[simp] theorem readSr_srAnswers (k : Channel) : (s.readSr k).srAnswers = s.srAnswers.tail := rfl
@[simp] theorem readSr_rhrAnswers (k : Channel) : (s.readSr k).rhrAnswers = s.rhrAnswers := rfl
@[simp] theorem readSr_draws (k : Channel) : (s.readSr k).draws = if s.srAnswers.isEmpty then s.draws + 1 else s.draws := rfl
@[simp] theorem readSr_trace (k : Channel) : (s.readSr k).trace = s.trace ++ [.regRead k .sr s.srAnswer] := rfl

/-! ### readRhr -/

@[simp] theorem readRhr_op (k : Channel) : (s.readRhr k).op = s.op := rfl
@[simp] theorem readRhr_c (k : Channel) : (s.readRhr k).c = s.c := rfl
@[simp] theorem readRhr_per (k : Channel) : (s.readRhr k).per = s.per := rfl
@[simp] theorem readRhr_sadr (k : Channel) : (s.readRhr k).sadr = s.sadr := rfl
@[simp] theorem readRhr_iasz (k : Channel) : (s.readRhr k).iasz = s.iasz := rfl
@[simp] theorem readRhr_iaddr (k : Channel) : (s.readRhr k).iaddr = s.iaddr := rfl
@[simp] theorem readRhr_len (k : Channel) : (s.readRhr k).len = s.len := rfl
@[simp] theorem readRhr_rd (k : Channel) : (s.readRhr k).rd = s.rd := rfl
@[simp] theorem readRhr_phase (k : Channel) : (s.readRhr k).phase = s.phase := rfl
@[simp] theorem readRhr_i (k : Channel) : (s.readRhr k).i = s.i := rfl
@[simp] theorem readRhr_n (k : Channel) : (s.readRhr k).n = s.n := rfl
@[simp] theorem readRhr_b (k : Channel) : (s.readRhr k).b = s.b := rfl
@[simp] theorem readRhr_result (k : Channel) : (s.readRhr k).result = s.result := rfl
@[simp] theorem readRhr_slot0 (k : Channel) : (s.readRhr k).slot0 = s.slot0 := rfl
@[simp] theorem readRhr_slot1 (k : Channel) : (s.readRhr k).slot1 = s.slot1 := rfl
@[simp] theorem readRhr_blk0 (k : Channel) : (s.readRhr k).blk0 = s.blk0 := rfl
@[simp] theorem readRhr_blk1 (k : Channel) : (s.readRhr k).blk1 = s.blk1 := rfl
@[simp] theorem readRhr_gate0 (k : Channel) : (s.readRhr k).gate0 = s.gate0 := rfl
@[simp] theorem readRhr_gate1 (k : Channel) : (s.readRhr k).gate1 = s.gate1 := rfl
@[simp] theorem readRhr_buffer (k : Channel) : (s.readRhr k).buffer = s.buffer := rfl
@[simp] theorem readRhr_port (k : Channel) : (s.readRhr k).port = s.port := rfl
@[simp] theorem readRhr_srAnswers (k : Channel) : (s.readRhr k).srAnswers = s.srAnswers := rfl
@[simp] theorem readRhr_rhrAnswers (k : Channel) : (s.readRhr k).rhrAnswers = s.rhrAnswers.tail := rfl
@[simp] theorem readRhr_draws (k : Channel) : (s.readRhr k).draws = if s.rhrAnswers.isEmpty then s.draws + 1 else s.draws := rfl
@[simp] theorem readRhr_trace (k : Channel) : (s.readRhr k).trace = s.trace ++ [.regRead k .rhr s.rhrAnswer] := rfl

/-! ### bufRead -/

@[simp] theorem bufRead_op (k : Nat) : (s.bufRead k).op = s.op := rfl
@[simp] theorem bufRead_c (k : Nat) : (s.bufRead k).c = s.c := rfl
@[simp] theorem bufRead_per (k : Nat) : (s.bufRead k).per = s.per := rfl
@[simp] theorem bufRead_sadr (k : Nat) : (s.bufRead k).sadr = s.sadr := rfl
@[simp] theorem bufRead_iasz (k : Nat) : (s.bufRead k).iasz = s.iasz := rfl
@[simp] theorem bufRead_iaddr (k : Nat) : (s.bufRead k).iaddr = s.iaddr := rfl
@[simp] theorem bufRead_len (k : Nat) : (s.bufRead k).len = s.len := rfl
@[simp] theorem bufRead_rd (k : Nat) : (s.bufRead k).rd = s.rd := rfl
@[simp] theorem bufRead_phase (k : Nat) : (s.bufRead k).phase = s.phase := rfl
@[simp] theorem bufRead_i (k : Nat) : (s.bufRead k).i = s.i := rfl
@[simp] theorem bufRead_n (k : Nat) : (s.bufRead k).n = s.n := rfl
@[simp] theorem bufRead_b (k : Nat) : (s.bufRead k).b = s.b := rfl
@[simp] theorem bufRead_result (k : Nat) : (s.bufRead k).result = s.result := rfl
@[simp] theorem bufRead_slot0 (k : Nat) : (s.bufRead k).slot0 = s.slot0 := rfl
@[simp] theorem bufRead_slot1 (k : Nat) : (s.bufRead k).slot1 = s.slot1 := rfl
@[simp] theorem bufRead_blk0 (k : Nat) : (s.bufRead k).blk0 = s.blk0 := rfl
@[simp] theorem bufRead_blk1 (k : Nat) : (s.bufRead k).blk1 = s.blk1 := rfl
@[simp] theorem bufRead_gate0 (k : Nat) : (s.bufRead k).gate0 = s.gate0 := rfl
@[simp] theorem bufRead_gate1 (k : Nat) : (s.bufRead k).gate1 = s.gate1 := rfl
@[simp] theorem bufRead_buffer (k : Nat) : (s.bufRead k).buffer = s.buffer := rfl
@[simp] theorem bufRead_port (k : Nat) : (s.bufRead k).port = s.port := rfl
@[simp] theorem bufRead_srAnswers (k : Nat) : (s.bufRead k).srAnswers = s.srAnswers := rfl
@[simp] theorem bufRead_rhrAnswers (k : Nat) : (s.bufRead k).rhrAnswers = s.rhrAnswers := rfl
@[simp] theorem bufRead_draws (k : Nat) : (s.bufRead k).draws = if (s.buffer.read k).isNone then s.draws + 1 else s.draws := rfl
@[simp] theorem bufRead_trace (k : Nat) : (s.bufRead k).trace = s.trace ++ [.bufRead k (s.bufByte k)] := rfl

/-! ### Banked fields read back -/

theorem channel_cases (k : Channel) : k = 0 ∨ k = 1 := by
  revert k; decide

@[simp] theorem slot_setSlot (k : Channel) (v : Slot) : (s.setSlot k v).slot k = v := by
  unfold State.setSlot State.slot; split <;> simp

theorem slot_setSlot_ne {j k : Channel} (v : Slot) (h : j ≠ k) : (s.setSlot k v).slot j = s.slot j := by
  unfold State.setSlot State.slot
  rcases channel_cases j with rfl | rfl <;> rcases channel_cases k with rfl | rfl <;> simp_all

@[simp] theorem blk_setBlk (k : Channel) (v : RegBlock) : (s.setBlk k v).blk k = v := by
  unfold State.setBlk State.blk; split <;> simp

theorem blk_setBlk_ne {j k : Channel} (v : RegBlock) (h : j ≠ k) : (s.setBlk k v).blk j = s.blk j := by
  unfold State.setBlk State.blk
  rcases channel_cases j with rfl | rfl <;> rcases channel_cases k with rfl | rfl <;> simp_all

@[simp] theorem gate_enableGate (k : Channel) : (s.enableGate k).gate k = .enabled := by
  unfold State.enableGate State.gate; split <;> simp

theorem gate_enableGate_ne {j k : Channel} (h : j ≠ k) : (s.enableGate k).gate j = s.gate j := by
  unfold State.enableGate State.gate
  rcases channel_cases j with rfl | rfl <;> rcases channel_cases k with rfl | rfl <;> simp_all

end Sys2Proof.Machine
end

