-- ==== Sys2Proof/Laws/Ops.lean ====
section
/-! SUPPORT. What the shared operations do to the banked state, the counters and the outcome: the lemmas
to cite instead of unfolding a register write, a poll or the return of a wait. -/

namespace Sys2Proof.Machine

/-! ### A register write (R55) -/

variable (s : State)

@[simp] theorem regWrite_op (c : Channel) (r : Reg) (v : Word) :
    (s.regWrite c r v).op = s.op := by simp [State.regWrite]
@[simp] theorem regWrite_c (c : Channel) (r : Reg) (v : Word) :
    (s.regWrite c r v).c = s.c := by simp [State.regWrite]
@[simp] theorem regWrite_per (c : Channel) (r : Reg) (v : Word) :
    (s.regWrite c r v).per = s.per := by simp [State.regWrite]
@[simp] theorem regWrite_sadr (c : Channel) (r : Reg) (v : Word) :
    (s.regWrite c r v).sadr = s.sadr := by simp [State.regWrite]
@[simp] theorem regWrite_iasz (c : Channel) (r : Reg) (v : Word) :
    (s.regWrite c r v).iasz = s.iasz := by simp [State.regWrite]
@[simp] theorem regWrite_iaddr (c : Channel) (r : Reg) (v : Word) :
    (s.regWrite c r v).iaddr = s.iaddr := by simp [State.regWrite]
@[simp] theorem regWrite_len (c : Channel) (r : Reg) (v : Word) :
    (s.regWrite c r v).len = s.len := by simp [State.regWrite]
@[simp] theorem regWrite_rd (c : Channel) (r : Reg) (v : Word) :
    (s.regWrite c r v).rd = s.rd := by simp [State.regWrite]
@[simp] theorem regWrite_phase (c : Channel) (r : Reg) (v : Word) :
    (s.regWrite c r v).phase = s.phase := by simp [State.regWrite]
@[simp] theorem regWrite_i (c : Channel) (r : Reg) (v : Word) :
    (s.regWrite c r v).i = s.i := by simp [State.regWrite]
@[simp] theorem regWrite_n (c : Channel) (r : Reg) (v : Word) :
    (s.regWrite c r v).n = s.n := by simp [State.regWrite]
@[simp] theorem regWrite_b (c : Channel) (r : Reg) (v : Word) :
    (s.regWrite c r v).b = s.b := by simp [State.regWrite]
@[simp] theorem regWrite_result (c : Channel) (r : Reg) (v : Word) :
    (s.regWrite c r v).result = s.result := by simp [State.regWrite]
@[simp] theorem regWrite_slot0 (c : Channel) (r : Reg) (v : Word) :
    (s.regWrite c r v).slot0 = s.slot0 := by simp [State.regWrite]
@[simp] theorem regWrite_slot1 (c : Channel) (r : Reg) (v : Word) :
    (s.regWrite c r v).slot1 = s.slot1 := by simp [State.regWrite]
@[simp] theorem regWrite_gate0 (c : Channel) (r : Reg) (v : Word) :
    (s.regWrite c r v).gate0 = s.gate0 := by simp [State.regWrite]
@[simp] theorem regWrite_gate1 (c : Channel) (r : Reg) (v : Word) :
    (s.regWrite c r v).gate1 = s.gate1 := by simp [State.regWrite]
@[simp] theorem regWrite_buffer (c : Channel) (r : Reg) (v : Word) :
    (s.regWrite c r v).buffer = s.buffer := by simp [State.regWrite]
@[simp] theorem regWrite_port (c : Channel) (r : Reg) (v : Word) :
    (s.regWrite c r v).port = s.port := by simp [State.regWrite]
@[simp] theorem regWrite_srAnswers (c : Channel) (r : Reg) (v : Word) :
    (s.regWrite c r v).srAnswers = s.srAnswers := by simp [State.regWrite]
@[simp] theorem regWrite_rhrAnswers (c : Channel) (r : Reg) (v : Word) :
    (s.regWrite c r v).rhrAnswers = s.rhrAnswers := by simp [State.regWrite]
@[simp] theorem regWrite_draws (c : Channel) (r : Reg) (v : Word) :
    (s.regWrite c r v).draws = s.draws := by simp [State.regWrite]
@[simp] theorem regWrite_trace (c : Channel) (r : Reg) (v : Word) :
    (s.regWrite c r v).trace = s.trace ++ [.regWrite c r v] := by simp [State.regWrite]

@[simp] theorem blk_regWrite (c : Channel) (r : Reg) (v : Word) :
    (s.regWrite c r v).blk c = (s.blk c).write r v := by
  unfold State.regWrite; exact blk_setBlk s c _

theorem blk_regWrite_ne {c c' : Channel} (r : Reg) (v : Word) (h : c' ≠ c) :
    (s.regWrite c r v).blk c' = s.blk c' := by
  unfold State.regWrite; exact blk_setBlk_ne s _ h

@[simp] theorem slot_regWrite (c c' : Channel) (r : Reg) (v : Word) :
    (s.regWrite c r v).slot c' = s.slot c' := by
  simp [State.slot, State.regWrite]

@[simp] theorem gate_regWrite (c c' : Channel) (r : Reg) (v : Word) :
    (s.regWrite c r v).gate c' = s.gate c' := by
  simp [State.gate, State.regWrite]

/-- A write of CR delivers a command and stores nothing (R29). -/
theorem regWrite_cr (c : Channel) (v : Word) :
    s.regWrite c .cr v = { s with trace := s.trace ++ [.regWrite c .cr v] } := by
  rcases channel_cases c with rfl | rfl <;> rfl

/-! ### Counters -/

/-- A poll within the budget does not wrap `n`. -/
theorem n_succ {s : State} (h : s.n.toNat < Config.pollMax) : (s.n + 1).toNat = s.n.toNat + 1 := by
  unfold Config.pollMax at h; rw [BitVec.toNat_add]; simp; omega

/-- The next index of a byte loop does not wrap `i`. -/
theorem i_succ {s : State} (h : s.i.toNat < s.len.toNat) : (s.i + 1).toNat = s.i.toNat + 1 := by
  have := s.len.isLt; rw [BitVec.toNat_add]; simp; omega

theorem lastByte_iff : s.lastByte = true ↔ s.i.toNat + 1 = s.len.toNat := by
  simp [State.lastByte]

theorem moreBytes_iff : s.moreBytes = true ↔ s.i.toNat + 1 < s.len.toNat := by
  simp [State.moreBytes]

theorem delayPhase_ne_pollPhase (ready : ReadyBit) : delayPhase ready ≠ pollPhase ready := by
  cases ready <;> decide

/-! ### The poll and the return of a wait (R121, R123) -/

/-- What one poll decides, when it ends the wait. -/
theorem pollVerdict_some {ready : ReadyBit} {v : Word} {k : Nat} {r : WaitResult}
    (h : pollVerdict ready v k = some r) :
    (r = .noAck ∧ nackSet v = true) ∨ (r = .ok ∧ nackSet v = false ∧ readySet ready v = true) ∨
    (r = .timeout ∧ nackSet v = false ∧ readySet ready v = false ∧ k = Config.pollMax) := by
  unfold pollVerdict at h
  split at h
  · cases h; simp_all
  · split at h
    · cases h; simp_all
    · split at h <;> cases h; simp_all

/-- When one poll decides nothing. -/
theorem pollVerdict_none {ready : ReadyBit} {v : Word} {k : Nat} (h : pollVerdict ready v k = none) :
    nackSet v = false ∧ readySet ready v = false ∧ k ≠ Config.pollMax := by
  unfold pollVerdict at h
  split at h
  · cases h
  · split at h
    · cases h
    · split at h <;> simp_all

/-- Within the budget the poll row never faults by itself. -/
theorem pollRow_some {s : State} {ready : ReadyBit} {r : WaitResult} (hn : s.n.toNat < Config.pollMax)
    (hv : pollVerdict ready s.srAnswer (s.n.toNat + 1) = some r) :
    s.pollRow ready = s.poll.waitReturns ready r := by
  unfold State.pollRow; rw [if_neg (by omega), hv]

theorem pollRow_none {s : State} {ready : ReadyBit} (hn : s.n.toNat < Config.pollMax)
    (hv : pollVerdict ready s.srAnswer (s.n.toNat + 1) = none) :
    s.pollRow ready = .next (s.poll.goto (delayPhase ready)) := by
  unfold State.pollRow; rw [if_neg (by omega), hv]

/-- With `i` in the buffer a wait that returns answers a next state. -/
theorem waitReturns_total {s : State} (ready : ReadyBit) (r : WaitResult)
    (hi : s.i.toNat < s.len.toNat) : ∃ t, s.waitReturns ready r = .next t := by
  cases r
  · cases ready
    · simp only [State.waitReturns]
      split
      · exact ⟨_, rfl⟩
      · split
        · exact ⟨_, rfl⟩
        · simp_all [State.lastByte, State.moreBytes]; omega
    · exact ⟨_, rfl⟩
  · exact ⟨_, rfl⟩
  · exact ⟨_, rfl⟩

end Sys2Proof.Machine
end

