-- ==== Sys2Proof/Laws/PerInstr.lean ====
section
/-! SUPPORT. The family `OpcodeRow`: the encoder gives every instruction a word of its own row of the
opcode map (30_encoding.md R95), and `WAIT_FOR`, which has no encoding, none. -/

namespace Sys2Proof.Laws.OpcodeRow

/-- `w & mask = match` for the row of the instruction (R95). -/
def Statement (i : Instr) : Prop :=
  match i, encode i with
  | .init _ _, some (.command w) => w &&& 0x00000000FFFFFC03 = 0x0000000000000001
  | .masterWrite _ _ _ _ _, some (.command w) => w &&& 0xFF00000000000003 = 0x0000000000000002
  | .masterRead _ _ _ _ _, some (.command w) => w &&& 0xFF00000000000003 = 0x0000000000000003
  | .waitFor _, e => e = none
  | .crStart, some (.cr w) => w &&& 0xFFFFFFFF = 0x00000001
  | .crStop, some (.cr w) => w &&& 0xFFFFFFFF = 0x00000002
  | .crStartStop, some (.cr w) => w &&& 0xFFFFFFFF = 0x00000003
  | .crMsen, some (.cr w) => w &&& 0xFFFFFFFF = 0x00000004
  | .crMsdis, some (.cr w) => w &&& 0xFFFFFFFF = 0x00000008
  | _, _ => False

theorem init (chsel : BitVec 8) (clkper : Word) : Statement (.init chsel clkper) :=
  (initRow_iff _).2 ⟨(fields_encodeInit chsel clkper).1, (fields_encodeInit chsel clkper).2.2.1⟩

theorem masterWrite (handle iasz : BitVec 2) (sadr : BitVec 10) (len : BitVec 16) (iaddr : BitVec 24) :
    Statement (.masterWrite handle iasz sadr len iaddr) :=
  have h := fields_encodeTransaction 2 handle iasz sadr len iaddr
  (transactionRow_iff _ 2).2 ⟨h.1, h.2.2.2.2.2.2⟩

theorem masterRead (handle iasz : BitVec 2) (sadr : BitVec 10) (len : BitVec 16) (iaddr : BitVec 24) :
    Statement (.masterRead handle iasz sadr len iaddr) :=
  have h := fields_encodeTransaction 3 handle iasz sadr len iaddr
  (transactionRow_iff _ 3).2 ⟨h.1, h.2.2.2.2.2.2⟩

theorem waitFor (ready : ReadyBit) : Statement (.waitFor ready) := rfl

theorem crStart : Statement .crStart :=
  show crStartWord &&& 0xFFFFFFFF = 0x00000001 by decide

theorem crStop : Statement .crStop :=
  show crStopWord &&& 0xFFFFFFFF = 0x00000002 by decide

theorem crStartStop : Statement .crStartStop :=
  show crStartStopWord &&& 0xFFFFFFFF = 0x00000003 by decide

theorem crMsen : Statement .crMsen :=
  show crMsenWord &&& 0xFFFFFFFF = 0x00000004 by decide

theorem crMsdis : Statement .crMsdis :=
  show crMsdisWord &&& 0xFFFFFFFF = 0x00000008 by decide

end Sys2Proof.Laws.OpcodeRow
end

