-- ==== Sys2Proof/Laws/Step.lean ====
section
/-! SUPPORT. What a step can do, said once: the step of each phase as one equation (10_state.md R25), the
acceptance step as four cases, and the outcomes of the rows both transactions share. -/

namespace Sys2Proof.Machine

/-! ### Choosing the instruction -/

theorem step_busy {s : State} (h : s.phase ≠ .idle) : step s = exec s.running s := by
  unfold step; split <;> simp_all

theorem step_unasked {s : State} (h : s.phase = .idle) (hp : s.port = []) : step s = .next s := by
  unfold step; simp [h, hp]

theorem step_decoded {s : State} {cmd : PortCommand} {rest : List PortCommand} {i : Instr}
    (h : s.phase = .idle) (hp : s.port = cmd :: rest) (hd : decodeCommand cmd.word = .ok i) :
    step s = exec i (s.accept cmd rest) := by
  unfold step; simp [h, hp, hd]

theorem step_illegal {s : State} {cmd : PortCommand} {rest : List PortCommand} {why : DecodeError}
    (h : s.phase = .idle) (hp : s.port = cmd :: rest) (hd : decodeCommand cmd.word = .error why) :
    step s = .refused (.illegalCommand why) := by
  unfold step; simp [h, hp, hd]

/-! ### The step of each busy phase -/

theorem step_iClk {s : State} (h : s.phase = .iClk) :
    step s = .next ((s.clockEnable s.c).goto .iCwgr) := by
  rw [step_busy (by simp [h])]; simp [State.running, exec, execInit, h]

theorem step_iCwgr {s : State} (h : s.phase = .iCwgr) :
    step s = .next ({ (s.regWrite s.c .cwgr s.per).setSlot s.c { initDone := true, cwgrCfg := s.per } with
      result := handleWord s.c }.goto .rsp) := by
  rw [step_busy (by simp [h])]; simp [State.running, exec, execInit, h]

theorem step_wMmr {s : State} (h : s.phase = .wMmr) :
    step s = .next ((s.regWrite s.c .mmr (mmrWord s.sadr s.iasz s.rd)).goto .wIadr) := by
  rw [step_busy (by simp [h])]; simp [State.running, exec, execMasterWrite, h]

theorem step_wIadr {s : State} (h : s.phase = .wIadr) :
    step s = .next ((s.regWrite s.c .iadr (iadrWord s.iaddr)).goto .wMsen) := by
  rw [step_busy (by simp [h])]; simp [State.running, exec, execMasterWrite, h]

theorem step_wMsen {s : State} (h : s.phase = .wMsen) :
    step s = .next ((s.regWrite s.c .cr crMsenWord).goto .wStart) := by
  rw [step_busy (by simp [h])]
  simp [State.running, exec, execMasterWrite, h, execCrMsen, andThen]

theorem step_wStart {s : State} (h : s.phase = .wStart) :
    step s = .next ({ s.regWrite s.c .cr crStartWord with i := 0 }.goto .wBuf) := by
  rw [step_busy (by simp [h])]
  simp [State.running, exec, execMasterWrite, h, execCrStart, andThen]

theorem step_wBuf {s : State} (h : s.phase = .wBuf) :
    step s = if s.i.toNat < s.len.toNat then
      .next ({ s.bufRead s.i.toNat with b := s.bufByte s.i.toNat }.goto .wThr)
    else .fault .positionOutsideTable := by
  rw [step_busy (by simp [h])]; simp [State.running, exec, execMasterWrite, h]

theorem step_wThr {s : State} (h : s.phase = .wThr) :
    step s = if s.lastByte then .next ((s.regWrite s.c .thr (thrWord s.b)).goto .wLstop)
    else if s.moreBytes then .next ((s.regWrite s.c .thr (thrWord s.b)).enterWait .txrdy)
    else .fault .positionOutsideTable := by
  rw [step_busy (by simp [h])]; simp [State.running, exec, execMasterWrite, h]

theorem step_wLstop {s : State} (h : s.phase = .wLstop) :
    step s = .next ((s.regWrite s.c .cr crStopWord).enterWait .txrdy) := by
  rw [step_busy (by simp [h])]
  simp [State.running, exec, execMasterWrite, h, execCrStop, andThen]

theorem step_wPoll {s : State} (h : s.phase = .wPoll) : step s = s.pollRow .txrdy := by
  rw [step_busy (by simp [h])]
  simp [State.running, exec, execMasterWrite, h, execWaitFor, pollPhase]

theorem step_wDelay {s : State} (h : s.phase = .wDelay) : step s = .next (s.delayRow .txrdy) := by
  rw [step_busy (by simp [h])]
  simp [State.running, exec, execMasterWrite, h, execWaitFor, pollPhase, delayPhase]

theorem step_wFstop {s : State} (h : s.phase = .wFstop) :
    step s = .next ((s.regWrite s.c .cr crStopWord).goto .rsp) := by
  rw [step_busy (by simp [h])]
  simp [State.running, exec, execMasterWrite, h, execCrStop, andThen]

theorem step_rMmr {s : State} (h : s.phase = .rMmr) :
    step s = .next ((s.regWrite s.c .mmr (mmrWord s.sadr s.iasz s.rd)).goto .rIadr) := by
  rw [step_busy (by simp [h])]; simp [State.running, exec, execMasterRead, h]

theorem step_rIadr {s : State} (h : s.phase = .rIadr) :
    step s = .next ((s.regWrite s.c .iadr (iadrWord s.iaddr)).goto .rStart) := by
  rw [step_busy (by simp [h])]; simp [State.running, exec, execMasterRead, h]

theorem step_rStart {s : State} (h : s.phase = .rStart) :
    step s = .next ({ s.regWrite s.c .cr (if s.len = 1 then crStartWord else crStartStopWord) with
      i := 0 }.enterWait .rxrdy) := by
  rw [step_busy (by simp [h])]
  simp only [State.running, exec, execMasterRead, h]
  split <;> simp_all [execCrStart, execCrStartStop, andThen]

theorem step_rPoll {s : State} (h : s.phase = .rPoll) : step s = s.pollRow .rxrdy := by
  rw [step_busy (by simp [h])]
  simp [State.running, exec, execMasterRead, h, execWaitFor, pollPhase]

theorem step_rDelay {s : State} (h : s.phase = .rDelay) : step s = .next (s.delayRow .rxrdy) := by
  rw [step_busy (by simp [h])]
  simp [State.running, exec, execMasterRead, h, execWaitFor, pollPhase, delayPhase]

theorem step_rRhr {s : State} (h : s.phase = .rRhr) :
    step s = .next ({ s.readRhr s.c with b := rhrByte s.rhrAnswer }.goto .rBuf) := by
  rw [step_busy (by simp [h])]; simp [State.running, exec, execMasterRead, h]

theorem step_rBuf {s : State} (h : s.phase = .rBuf) :
    step s = if s.moreBytes then
      .next ({ s.bufWrite s.i.toNat s.b with i := s.i + 1 }.enterWait .rxrdy)
    else if s.lastByte then
      if s.len = 1 then .next ({ s.bufWrite s.i.toNat s.b with result := 1 }.goto .rsp)
      else .next ((s.bufWrite s.i.toNat s.b).goto .rLstop)
    else .fault .positionOutsideTable := by
  rw [step_busy (by simp [h])]; simp [State.running, exec, execMasterRead, h]

theorem step_rLstop {s : State} (h : s.phase = .rLstop) :
    step s = .next ({ s.regWrite s.c .cr crStopWord with
      result := countWord (s.regWrite s.c .cr crStopWord).len }.goto .rsp) := by
  rw [step_busy (by simp [h])]
  simp [State.running, exec, execMasterRead, h, execCrStop, andThen]

theorem step_rFstop {s : State} (h : s.phase = .rFstop) :
    step s = .next ((s.regWrite s.c .cr crStopWord).goto .rsp) := by
  rw [step_busy (by simp [h])]
  simp [State.running, exec, execMasterRead, h, execCrStop, andThen]

theorem step_rsp {s : State} (h : s.phase = .rsp) : step s = .next s.respond := by
  rw [step_busy (by simp [h])]
  simp only [State.running, h]
  split
  · simp [exec, execMasterWrite, h]
  · split <;> simp [exec, execMasterRead, execInit, h]

/-! ### The shared rows -/

/-- What one poll can lead to. -/
theorem pollRow_next {s t : State} {ready : ReadyBit} (h : s.pollRow ready = .next t) :
    s.n.toNat < Config.pollMax ∧
      ((∃ r, pollVerdict ready s.srAnswer (s.n.toNat + 1) = some r ∧
          s.poll.waitReturns ready r = .next t) ∨
       (pollVerdict ready s.srAnswer (s.n.toNat + 1) = none ∧ t = s.poll.goto (delayPhase ready))) := by
  unfold State.pollRow at h
  split at h
  · cases h
  · refine ⟨by omega, ?_⟩
    split at h
    · exact .inl ⟨_, ‹_›, h⟩
    · exact .inr ⟨‹_›, by cases h; rfl⟩

/-- What the return of a wait can lead to. -/
theorem waitReturns_next {s t : State} {ready : ReadyBit} {r : WaitResult}
    (h : s.waitReturns ready r = .next t) :
    (r = .noAck ∧ t = s.raiseFault ready Config.eNoAck) ∨
    (r = .timeout ∧ t = s.raiseFault ready Config.eTimeout) ∨
    (r = .ok ∧ ready = .txrdy ∧ s.lastByte = true ∧
      t = { s with result := countWord s.len }.goto .rsp) ∨
    (r = .ok ∧ ready = .txrdy ∧ s.moreBytes = true ∧ t = { s with i := s.i + 1 }.goto .wBuf) ∨
    (r = .ok ∧ ready = .rxrdy ∧ t = s.goto .rRhr) := by
  unfold State.waitReturns at h
  split at h
  · exact .inl ⟨rfl, by cases h; rfl⟩
  · exact .inr (.inl ⟨rfl, by cases h; rfl⟩)
  · split at h
    · split at h
      · exact .inr (.inr (.inl ⟨rfl, rfl, ‹_›, by cases h; rfl⟩))
      · split at h
        · exact .inr (.inr (.inr (.inl ⟨rfl, rfl, ‹_›, by cases h; rfl⟩)))
        · cases h
    · exact .inr (.inr (.inr (.inr ⟨rfl, rfl, by cases h; rfl⟩)))

/-- When a transaction is admitted (R26, R96). -/
theorem admission_none {s : State} {handle : BitVec 2} {len : BitVec 16} :
    s.admission handle len = none ↔
      len ≠ 0 ∧ handle ≠ 0 ∧ handle ≠ 3 ∧ (s.slot (channelOfHandle handle)).initDone = true := by
  unfold State.admission
  split; · simp_all
  split; · simp_all; intro; tauto
  split <;> simp_all

/-! ### Every busy step -/

/-- The rows of R25 below `IDLE`, as a relation: `Row s t` when a busy step leads from `s` to `t`. -/
inductive Row : State → State → Prop where
  | iClk {s : State} (h : s.phase = .iClk) : Row s ((s.clockEnable s.c).goto .iCwgr)
  | iCwgr {s : State} (h : s.phase = .iCwgr) :
    Row s ({ (s.regWrite s.c .cwgr s.per).setSlot s.c { initDone := true, cwgrCfg := s.per } with
      result := handleWord s.c }.goto .rsp)
  | wMmr {s : State} (h : s.phase = .wMmr) :
    Row s ((s.regWrite s.c .mmr (mmrWord s.sadr s.iasz s.rd)).goto .wIadr)
  | wIadr {s : State} (h : s.phase = .wIadr) :
    Row s ((s.regWrite s.c .iadr (iadrWord s.iaddr)).goto .wMsen)
  | wMsen {s : State} (h : s.phase = .wMsen) : Row s ((s.regWrite s.c .cr crMsenWord).goto .wStart)
  | wStart {s : State} (h : s.phase = .wStart) :
    Row s ({ s.regWrite s.c .cr crStartWord with i := 0 }.goto .wBuf)
  | wBuf {s : State} (h : s.phase = .wBuf) (hi : s.i.toNat < s.len.toNat) :
    Row s ({ s.bufRead s.i.toNat with b := s.bufByte s.i.toNat }.goto .wThr)
  | wThrLast {s : State} (h : s.phase = .wThr) (hl : s.lastByte = true) :
    Row s ((s.regWrite s.c .thr (thrWord s.b)).goto .wLstop)
  | wThrMore {s : State} (h : s.phase = .wThr) (hm : s.moreBytes = true) :
    Row s ((s.regWrite s.c .thr (thrWord s.b)).enterWait .txrdy)
  | wLstop {s : State} (h : s.phase = .wLstop) :
    Row s ((s.regWrite s.c .cr crStopWord).enterWait .txrdy)
  | pollAgain {s : State} (ready : ReadyBit) (h : s.phase = pollPhase ready)
    (hn : s.n.toNat < Config.pollMax) (hv : pollVerdict ready s.srAnswer (s.n.toNat + 1) = none) :
    Row s (s.poll.goto (delayPhase ready))
  | pollNoAck {s : State} (ready : ReadyBit) (h : s.phase = pollPhase ready)
    (hn : s.n.toNat < Config.pollMax)
    (hv : pollVerdict ready s.srAnswer (s.n.toNat + 1) = some .noAck) :
    Row s (s.poll.raiseFault ready Config.eNoAck)
  | pollTimeout {s : State} (ready : ReadyBit) (h : s.phase = pollPhase ready)
    (hn : s.n.toNat < Config.pollMax)
    (hv : pollVerdict ready s.srAnswer (s.n.toNat + 1) = some .timeout) :
    Row s (s.poll.raiseFault ready Config.eTimeout)
  | wPollLast {s : State} (h : s.phase = .wPoll) (hn : s.n.toNat < Config.pollMax)
    (hv : pollVerdict .txrdy s.srAnswer (s.n.toNat + 1) = some .ok) (hl : s.lastByte = true) :
    Row s ({ s.poll with result := countWord s.len }.goto .rsp)
  | wPollMore {s : State} (h : s.phase = .wPoll) (hn : s.n.toNat < Config.pollMax)
    (hv : pollVerdict .txrdy s.srAnswer (s.n.toNat + 1) = some .ok) (hm : s.moreBytes = true) :
    Row s ({ s.poll with i := s.i + 1 }.goto .wBuf)
  | rPollOk {s : State} (h : s.phase = .rPoll) (hn : s.n.toNat < Config.pollMax)
    (hv : pollVerdict .rxrdy s.srAnswer (s.n.toNat + 1) = some .ok) : Row s (s.poll.goto .rRhr)
  | delay {s : State} (ready : ReadyBit) (h : s.phase = delayPhase ready) : Row s (s.delayRow ready)
  | wFstop {s : State} (h : s.phase = .wFstop) : Row s ((s.regWrite s.c .cr crStopWord).goto .rsp)
  | rMmr {s : State} (h : s.phase = .rMmr) :
    Row s ((s.regWrite s.c .mmr (mmrWord s.sadr s.iasz s.rd)).goto .rIadr)
  | rIadr {s : State} (h : s.phase = .rIadr) :
    Row s ((s.regWrite s.c .iadr (iadrWord s.iaddr)).goto .rStart)
  | rStart {s : State} (h : s.phase = .rStart) :
    Row s ({ s.regWrite s.c .cr (if s.len = 1 then crStartWord else crStartStopWord) with
      i := 0 }.enterWait .rxrdy)
  | rRhr {s : State} (h : s.phase = .rRhr) :
    Row s ({ s.readRhr s.c with b := rhrByte s.rhrAnswer }.goto .rBuf)
  | rBufMore {s : State} (h : s.phase = .rBuf) (hm : s.moreBytes = true) :
    Row s ({ s.bufWrite s.i.toNat s.b with i := s.i + 1 }.enterWait .rxrdy)
  | rBufOnly {s : State} (h : s.phase = .rBuf) (hl : s.lastByte = true) (h1 : s.len = 1) :
    Row s ({ s.bufWrite s.i.toNat s.b with result := 1 }.goto .rsp)
  | rBufLast {s : State} (h : s.phase = .rBuf) (hl : s.lastByte = true) (h1 : s.len ≠ 1) :
    Row s ((s.bufWrite s.i.toNat s.b).goto .rLstop)
  | rLstop {s : State} (h : s.phase = .rLstop) :
    Row s ({ s.regWrite s.c .cr crStopWord with
      result := countWord (s.regWrite s.c .cr crStopWord).len }.goto .rsp)
  | rFstop {s : State} (h : s.phase = .rFstop) : Row s ((s.regWrite s.c .cr crStopWord).goto .rsp)
  | rsp {s : State} (h : s.phase = .rsp) : Row s s.respond

theorem pollRow_row {s t : State} {ready : ReadyBit} (hp : s.phase = pollPhase ready)
    (h : s.pollRow ready = .next t) : Row s t := by
  obtain ⟨hn, ⟨r, hv, hw⟩ | ⟨hv, rfl⟩⟩ := pollRow_next h
  · rcases waitReturns_next hw with ⟨rfl, rfl⟩ | ⟨rfl, rfl⟩ | ⟨rfl, rfl, hl, rfl⟩ | ⟨rfl, rfl, hm, rfl⟩ |
      ⟨rfl, rfl, rfl⟩
    · exact .pollNoAck ready hp hn hv
    · exact .pollTimeout ready hp hn hv
    · exact .wPollLast hp hn hv hl
    · exact .wPollMore hp hn hv hm
    · exact .rPollOk hp hn hv
  · exact .pollAgain ready hp hn hv

/-- A busy step that answers a next state is one of the rows. -/
theorem step_row {s t : State} (h : s.phase ≠ .idle) (hs : step s = .next t) : Row s t := by
  cases hp : s.phase
  case idle => exact absurd hp h
  case iClk => rw [step_iClk hp] at hs; cases hs; exact .iClk hp
  case iCwgr => rw [step_iCwgr hp] at hs; cases hs; exact .iCwgr hp
  case wMmr => rw [step_wMmr hp] at hs; cases hs; exact .wMmr hp
  case wIadr => rw [step_wIadr hp] at hs; cases hs; exact .wIadr hp
  case wMsen => rw [step_wMsen hp] at hs; cases hs; exact .wMsen hp
  case wStart => rw [step_wStart hp] at hs; cases hs; exact .wStart hp
  case wBuf => rw [step_wBuf hp] at hs; split at hs <;> cases hs; exact .wBuf hp ‹_›
  case wThr =>
    rw [step_wThr hp] at hs
    (repeat' split at hs) <;> cases hs
    · exact .wThrLast hp ‹_›
    · exact .wThrMore hp ‹_›
  case wLstop => rw [step_wLstop hp] at hs; cases hs; exact .wLstop hp
  case wPoll => rw [step_wPoll hp] at hs; exact pollRow_row (ready := .txrdy) hp hs
  case wDelay => rw [step_wDelay hp] at hs; cases hs; exact .delay .txrdy hp
  case wFstop => rw [step_wFstop hp] at hs; cases hs; exact .wFstop hp
  case rMmr => rw [step_rMmr hp] at hs; cases hs; exact .rMmr hp
  case rIadr => rw [step_rIadr hp] at hs; cases hs; exact .rIadr hp
  case rStart => rw [step_rStart hp] at hs; cases hs; exact .rStart hp
  case rPoll => rw [step_rPoll hp] at hs; exact pollRow_row (ready := .rxrdy) hp hs
  case rDelay => rw [step_rDelay hp] at hs; cases hs; exact .delay .rxrdy hp
  case rRhr => rw [step_rRhr hp] at hs; cases hs; exact .rRhr hp
  case rBuf =>
    rw [step_rBuf hp] at hs
    (repeat' split at hs) <;> cases hs
    · exact .rBufMore hp ‹_›
    · exact .rBufOnly hp ‹_› ‹_›
    · exact .rBufLast hp ‹_› ‹_›
  case rLstop => rw [step_rLstop hp] at hs; cases hs; exact .rLstop hp
  case rFstop => rw [step_rFstop hp] at hs; cases hs; exact .rFstop hp
  case rsp => rw [step_rsp hp] at hs; cases hs; exact .rsp hp

theorem regWrite_cwgr0 (s : State) (c : Channel) (v : Word) {r : Reg} (h : r ≠ .cwgr) :
    (s.regWrite c r v).blk0.cwgr = s.blk0.cwgr := by
  rcases channel_cases c with rfl | rfl <;> cases r <;> first | rfl | exact absurd rfl h

theorem regWrite_cwgr1 (s : State) (c : Channel) (v : Word) {r : Reg} (h : r ≠ .cwgr) :
    (s.regWrite c r v).blk1.cwgr = s.blk1.cwgr := by
  rcases channel_cases c with rfl | rfl <;> cases r <;> first | rfl | exact absurd rfl h

/-- No row below `IDLE` but those of `INIT` touches a slot, a gate or CWGR (R36). -/
theorem row_registry {s t : State} (h : Row s t) (h1 : s.phase ≠ .iClk) (h2 : s.phase ≠ .iCwgr)
    (c : Channel) :
    t.slot c = s.slot c ∧ t.gate c = s.gate c ∧ (t.blk c).cwgr = (s.blk c).cwgr := by
  have key : t.slot0 = s.slot0 ∧ t.slot1 = s.slot1 ∧ t.gate0 = s.gate0 ∧ t.gate1 = s.gate1 ∧
      t.blk0.cwgr = s.blk0.cwgr ∧ t.blk1.cwgr = s.blk1.cwgr := by
    cases h
    case iClk h => exact absurd h h1
    case iCwgr h => exact absurd h h2
    all_goals simp [regWrite_cwgr0, regWrite_cwgr1, State.enterWait, State.poll, State.raiseFault,
      State.delayRow, State.delay, State.respond, State.bufWrite]
  obtain ⟨a, b, d, e, f, g⟩ := key
  rcases channel_cases c with rfl | rfl
  · exact ⟨a, d, f⟩
  · exact ⟨b, e, g⟩

/-! ### Acceptance -/

theorem opcode_cases (w : CmdWord) :
    field w 0 2 = 0 ∨ field w 0 2 = 1 ∨ field w 0 2 = 2 ∨ field w 0 2 = 3 := by
  generalize field w 0 2 = x; revert x; decide

/-- What the command decoder can answer. -/
theorem decodeCommand_ok {w : CmdWord} {i : Instr} (h : decodeCommand w = .ok i) :
    (field w 0 2 = 1 ∧ field w 10 22 = 0 ∧ i = .init (field w 2 8) (field w 32 32)) ∨
    (field w 0 2 = 2 ∧ field w 56 8 = 0 ∧ i = .masterWrite (field w 2 2) (field w 4 2) (field w 6 10)
      (field w 16 16) (field w 32 24)) ∨
    (field w 0 2 = 3 ∧ field w 56 8 = 0 ∧ i = .masterRead (field w 2 2) (field w 4 2) (field w 6 10)
      (field w 16 16) (field w 32 24)) := by
  rcases opcode_cases w with h0 | h0 | h0 | h0 <;> simp only [decodeCommand, h0] at h <;> simp at h <;>
    split at h <;> simp_all

/-- What an acceptance step can lead to (R25 rows `IDLE`). -/
theorem accept_next {s t : State} {cmd : PortCommand} {rest : List PortCommand} (h : s.phase = .idle)
    (hp : s.port = cmd :: rest) (hs : step s = .next t) :
    (∃ chsel clkper, decodeCommand cmd.word = .ok (.init chsel clkper) ∧ selectorValid chsel = true ∧
      t = ((s.accept cmd rest).latchInit chsel clkper).goto .iClk) ∨
    (∃ chsel clkper, decodeCommand cmd.word = .ok (.init chsel clkper) ∧ selectorValid chsel = false ∧
      t = { s.accept cmd rest with op := 1, result := 0 }.goto .rsp) ∨
    (∃ handle iasz sadr len iaddr,
      decodeCommand cmd.word = .ok (.masterWrite handle iasz sadr len iaddr) ∧
      s.admission handle len = none ∧
      t = ((s.accept cmd rest).latchTransaction 2 handle iasz sadr len iaddr).goto .wMmr) ∨
    (∃ handle iasz sadr len iaddr,
      decodeCommand cmd.word = .ok (.masterRead handle iasz sadr len iaddr) ∧
      s.admission handle len = none ∧
      t = ((s.accept cmd rest).latchTransaction 3 handle iasz sadr len iaddr).goto .rMmr) := by
  have ha : (s.accept cmd rest).phase = .idle := h
  rcases hd : decodeCommand cmd.word with e | i
  · rw [step_illegal h hp hd] at hs; cases hs
  · rw [step_decoded h hp hd] at hs
    rcases decodeCommand_ok hd with ⟨-, -, rfl⟩ | ⟨-, -, rfl⟩ | ⟨-, -, rfl⟩
    · simp only [exec, execInit, ha] at hs
      split at hs <;> cases hs
      · exact .inl ⟨_, _, rfl, ‹_›, rfl⟩
      · exact .inr (.inl ⟨_, _, rfl, by simp_all, rfl⟩)
    · simp only [exec, execMasterWrite, ha] at hs
      split at hs <;> cases hs
      exact .inr (.inr (.inl ⟨_, _, _, _, _, rfl, ‹_›, rfl⟩))
    · simp only [exec, execMasterRead, ha] at hs
      split at hs <;> cases hs
      exact .inr (.inr (.inr ⟨_, _, _, _, _, rfl, ‹_›, rfl⟩))

end Sys2Proof.Machine
end

