-- ==== Sys2Proof/Laws/Run.lean ====
section
/-! SUPPORT. Runs of the machine, one step at a time: the equations to rewrite with instead of unfolding
`Host.Core.run` and `core`. -/

namespace Sys2Proof.Machine

theorem core_run_next {M : Host.Core} {s t : M.State} (k : Nat) (h : M.step s = .next t) :
    M.run (k + 1) s = M.run k t := by
  rw [Host.Core.run, h]

theorem core_run_fault {M : Host.Core} {s : M.State} {r : M.Fault} (k : Nat)
    (h : M.step s = .fault r) : M.run (k + 1) s = .fault r := by
  rw [Host.Core.run, h]

theorem core_run_refused {M : Host.Core} {s : M.State} {r : M.Refusal} (k : Nat)
    (h : M.step s = .refused r) : M.run (k + 1) s = .refused r := by
  rw [Host.Core.run, h]

@[simp] theorem run_zero (s : State) : Host.Core.run core 0 s = .next s := rfl

theorem run_next {s t : State} (k : Nat) (h : step s = .next t) :
    Host.Core.run core (k + 1) s = Host.Core.run core k t := by
  have h' : core.step s = .next t := h
  exact core_run_next (M := core) k h'

theorem run_fault {s : State} {r : Fault} (k : Nat) (h : step s = .fault r) :
    Host.Core.run core (k + 1) s = .fault r := by
  have h' : core.step s = .fault r := h
  exact core_run_fault (M := core) k h'

theorem run_refused {s : State} {r : Refusal} (k : Nat) (h : step s = .refused r) :
    Host.Core.run core (k + 1) s = .refused r := by
  have h' : core.step s = .refused r := h
  exact core_run_refused (M := core) k h'

theorem run_one (s : State) : Host.Core.run core 1 s = step s := by
  rcases h : step s with t | r | r
  · exact run_next 0 h
  · exact run_fault 0 h
  · exact run_refused 0 h

/-- Runs compose. -/
theorem run_add {s t : State} {j : Nat} (k : Nat) (h : Host.Core.run core j s = .next t) :
    Host.Core.run core (j + k) s = Host.Core.run core k t := by
  induction j generalizing s with
  | zero => cases h; simp
  | succ j ih =>
    rw [show j + 1 + k = (j + k) + 1 by omega]
    rcases hs : step s with u | r | r
    · rw [run_next _ hs] at h ⊢; exact ih h
    · rw [run_fault _ hs] at h; cases h
    · rw [run_refused _ hs] at h; cases h

end Sys2Proof.Machine
end

