-- ==== Sys2Proof/Tests/Slice0.lean ====
section
/-! SUPPORT. Small tests: ill-formed terms are refused, words written out from 30_encoding.md decode to
what they stand for, one step does what the vectors of 95_test_vectors.md say, and every obligation with
hypotheses has a state that meets them. -/

namespace Sys2Proof.Tests

open Sys2Proof Sys2Proof.Machine

/-! ### Helpers -/

/-- A state of `LaunchInitialised(c, per)`, the other slot holding `other` (70_reset_and_hazards.md R194). -/
def launched (c : Channel) (per : Word) (other : Slot) : State :=
  { State.reset with
    slot0 := if c = 0 then { initDone := true, cwgrCfg := per } else other
    slot1 := if c = 0 then other else { initDone := true, cwgrCfg := per }
    blk0 := { RegBlock.reset with cwgr := if c = 0 then per else other.cwgrCfg }
    blk1 := { RegBlock.reset with cwgr := if c = 0 then other.cwgrCfg else per }
    gate0 := if c = 0 || other.initDone then .enabled else .unknown
    gate1 := if c = 1 || other.initDone then .enabled else .unknown }

/-- `LaunchInitialised(0, 0x10)`, as the vectors use it. -/
def launched0 : State := launched 0 0x10 .reset

/-- `LaunchInitialised(1, 0x10)`, as the vectors use it. -/
def launched1 : State := launched 1 0x10 .reset

/-- A command with the buffer lent for it, byte `k` at index `k`. -/
def lend (w : CmdWord) (bytes : List Byte) : PortCommand :=
  { word := w, lent := (List.range bytes.length).zip bytes }

/-- `s` with one command presented. -/
def presented (s : State) (w : CmdWord) (bytes : List Byte) : State :=
  { s with port := [lend w bytes] }

/-- A write of channel 0 in progress at phase `p`, byte `i` of `len`, SR answering `sr`. -/
def writing (p : Phase) (i len : BitVec 16) (sr : List Word) : State :=
  { launched0 with
    op := 2, sadr := 0x50, iasz := 1, len := len, i := i, phase := p, srAnswers := sr
    buffer := [(0, 0xAA), (1, 0xBB)] }

/-- A read of channel 0 in progress at phase `p`, byte `i` of `len`, SR answering `sr`. -/
def reading (p : Phase) (i len : BitVec 16) (sr : List Word) : State :=
  { launched0 with
    op := 3, rd := 1, sadr := 0x50, iasz := 1, len := len, i := i, phase := p, srAnswers := sr
    rhrAnswers := [0x156], buffer := [(0, 0xEE), (1, 0xEE)] }

/-- An `INIT` of channel 1 in progress at phase `p`. -/
def initialising (p : Phase) : State :=
  { State.reset with op := 1, c := 1, per := 0x1D0D0, gate1 := .enabled, phase := p }

/-- What is seen of a next state; `none` for a stop. -/
def seen {α : Type} (o : Result) (f : State → α) : Option α :=
  match o with
  | .next s => some (f s)
  | .fault _ => none
  | .refused _ => none

/-- The refusal of an outcome. -/
def refusal : Result → Option Refusal
  | .refused r => some r
  | .next _ => none
  | .fault _ => none

/-! ### Launch premises (R194) -/

theorem test_launch_reset : State.reset.LaunchReset := ⟨rfl, by decide, rfl⟩

/-- The premise can hold for every channel and divisor, whatever the other slot holds. -/
theorem test_launch_initialised (c : Channel) (per : Word) (other : Slot) :
    (launched c per other).LaunchInitialised c per := by
  rcases channel_cases c with rfl | rfl <;> exact ⟨rfl, rfl, rfl⟩

/-! ### Well-formedness (R96) -/

theorem test_wf_init_any_selector : (Instr.init 255 0).wellFormed = true := by decide
theorem test_wf_write : (Instr.masterWrite 1 0 0x50 1 0).wellFormed = true := by decide
theorem test_wf_read : (Instr.masterRead 2 3 0x3FF 0xFFFF 0xFFFFFF).wellFormed = true := by decide
theorem test_wf_write_null_handle : (Instr.masterWrite 0 0 0x50 1 0).wellFormed = false := by decide
theorem test_wf_write_handle_three : (Instr.masterWrite 3 0 0x50 1 0).wellFormed = false := by decide
theorem test_wf_write_no_length : (Instr.masterWrite 1 0 0x50 0 0).wellFormed = false := by decide
theorem test_wf_read_null_handle : (Instr.masterRead 0 0 0x50 1 0).wellFormed = false := by decide
theorem test_wf_read_handle_three : (Instr.masterRead 3 0 0x50 1 0).wellFormed = false := by decide
theorem test_wf_read_no_length : (Instr.masterRead 2 0 0x50 0 0).wellFormed = false := by decide

/-! ### Decoding: words written field by field, most significant first (R81, R82, R88) -/

/-- `CLKPER`, reserved, `CHSEL`, `OP` of R81. -/
theorem test_decode_init :
    decodeCommand (0b00000000000000011101000011010000#32 ++ 0b0000000000000000000000#22 ++
      0b00000001#8 ++ 0b01#2) = .ok (.init 1 0x1D0D0) := by rfl

/-- Reserved, `IADDR`, `LEN`, `SADR`, `IASZ`, `HANDLE`, `OP` of R82 (V-E9). -/
theorem test_decode_write :
    decodeCommand (0b00000000#8 ++ 0b000000000001001000110100#24 ++ 0b0000000000000011#16 ++
      0b0001101000#10 ++ 0b10#2 ++ 0b10#2 ++ 0b10#2) = .ok (.masterWrite 2 2 0x68 3 0x1234) := by rfl

/-- The same format with `OP = 3` (V-E10). -/
theorem test_decode_read :
    decodeCommand (0b00000000#8 ++ 0b101010111100110111101111#24 ++ 0b0000000000000010#16 ++
      0b1111111111#10 ++ 0b11#2 ++ 0b10#2 ++ 0b11#2) = .ok (.masterRead 2 3 0x3FF 2 0xABCDEF) := by rfl

/-- Bit 0 START, bit 1 STOP, bit 2 MSEN, bit 3 MSDIS of R88. -/
theorem test_decode_cr :
    decodeCr (0#28 ++ 0b0001#4) = .ok .crStart ∧ decodeCr (0#28 ++ 0b0010#4) = .ok .crStop ∧
    decodeCr (0#28 ++ 0b0011#4) = .ok .crStartStop ∧ decodeCr (0#28 ++ 0b0100#4) = .ok .crMsen ∧
    decodeCr (0#28 ++ 0b1000#4) = .ok .crMsdis := ⟨rfl, rfl, rfl, rfl, rfl⟩

/-- V-E3: an invalid selector is a legal word. -/
theorem test_decode_invalid_selector :
    decodeCommand 0x0000001000000009 = .ok (.init 2 0x10) := by rfl

/-- V-E11, V-E12. -/
theorem test_decode_vectors :
    decodeCommand 0x0000003200010757 = .ok (.masterRead 1 1 0x1D 1 0x32) ∧
    decodeCommand 0x0000000000011406 = .ok (.masterWrite 1 0 0x50 1 0) := ⟨rfl, rfl⟩

/-- V-X1, V-X2, V-X3, and words no CR decoder knows (R96, U4, U15). -/
theorem test_decode_refuses :
    decodeCommand 0x0000000000000000 = .error .reservedOp ∧
    decodeCommand 0x0000001000000401 = .error .reservedInitBits ∧
    decodeCommand 0x0100000000021416 = .error .reservedTransactionBits ∧
    decodeCr 0x00000000 = .error .unknownCrWord ∧ decodeCr 0x00000010 = .error .unknownCrWord :=
  ⟨rfl, rfl, rfl, rfl, rfl⟩

/-- V-E8, V-E4. -/
theorem test_encode :
    encode (.masterWrite 2 2 0x68 1 0x1234) = some (.command 0x0000123400011A2A) ∧
    encode (.init 1 0x1D0D0) = some (.command 0x0001D0D000000005) ∧
    encode (.waitFor .txrdy) = none := ⟨rfl, rfl, rfl⟩

/-- V-M3, V-M4, V-M6, V-M8. -/
theorem test_mode_words :
    mmrWord 0x68 2 0 = 0x00680200 ∧ mmrWord 0x3FF 3 1 = 0x03FF1300 ∧ mmrWord 0x1D 1 1 = 0x001D1100 ∧
    mmrWord 0 0 1 = 0x00001000 := by decide

/-! ### INIT -/

/-- V-I1, its `ClkEn`. -/
theorem test_init_clock :
    step (initialising .iClk) =
      .next { initialising .iCwgr with trace := [.clkEn (Config.pid 1)] } := by rfl

/-- V-I1, its CWGR row: the handle of channel 1 is 2, the slot holds the divisor. -/
theorem test_init_cwgr :
    seen (step (initialising .iCwgr)) (fun t => (t.result, t.slot1, t.slot0.initDone, t.trace)) =
      some (2, { initDone := true, cwgrCfg := 0x1D0D0 }, false,
        [.regWrite 1 .cwgr 0x0001D0D0]) := by decide

/-- V-I3: selector 255 answers the null handle. -/
theorem test_init_invalid :
    seen (step (presented State.reset 0x00000000000003FD [])) (fun t => (t.phase, t.result, t.trace)) =
      some (.rsp, 0, [.cmd 0x00000000000003FD]) := by decide

/-! ### MASTER_WRITE -/

/-- S2: the last byte is followed by the STOP, before its wait (R134). -/
theorem test_write_stop_before_wait :
    seen (step (writing .wThr 1 2 [])) (fun t => t.phase) = some .wLstop ∧
    seen (step (writing .wThr 0 2 [])) (fun t => t.phase) = some .wPoll ∧
    seen (step (writing .wLstop 1 2 [])) (fun t => (t.phase, t.trace)) =
      some (.wPoll, [.regWrite 0 .cr 0x2]) := by decide

/-- V-M2's neighbour V-M1: the MMR word of a write has no read flag. -/
theorem test_write_mode :
    seen (step (writing .wMmr 0 2 [])) (fun t => (t.blk0.mmr, t.blk1.mmr)) = some (0x00500100, 0) := by
  decide

/-- R43: a stale index of an earlier, longer command is not kept: `i` is in range from admission on. -/
theorem test_index_at_admission :
    seen (step { presented launched0 0x0000000000011416 [0xAA] with i := 9 }) (fun t => (t.phase, t.i)) =
      some (.wMmr, 0) ∧
    seen (step { presented launched0 0x0000000000011417 [0] with i := 9 }) (fun t => (t.phase, t.i)) =
      some (.rMmr, 0) := by decide

/-! ### MASTER_READ -/

/-- P1: the third RHR value 0x156 is cut to its low byte (R148). -/
theorem test_read_low_byte :
    seen (step (reading .rRhr 1 2 [])) (fun t => (t.b, t.trace)) =
      some (0x56, [.regRead 0 .rhr 0x156]) := by decide

/-- V-R2 and V-R1: START and STOP in one word for two bytes, START alone for one. -/
theorem test_read_start :
    seen (step (reading .rStart 0 2 [])) (fun t => t.trace) = some [.regWrite 0 .cr 0x3] ∧
    seen (step (reading .rStart 0 1 [])) (fun t => t.trace) = some [.regWrite 0 .cr 0x1] := by decide

/-! ### WAIT_FOR -/

/-- V-P4: NACK beats ready. -/
theorem test_wait_nack_first :
    seen (exec (.waitFor .txrdy) (writing .wPoll 0 2 [0x104])) (fun t => (t.phase, t.result)) =
      some (.wFstop, 0xFFFFFFFF) := by decide

/-- V-P9 and V-P7, their last poll: the 100th value decides. -/
theorem test_wait_last_poll :
    seen (exec (.waitFor .txrdy) { writing .wPoll 0 2 [0x0] with n := 99 }) (fun t => (t.phase, t.result)) =
      some (.wFstop, 0xFFFFFFFE) ∧
    seen (exec (.waitFor .txrdy) { writing .wPoll 0 2 [0x4] with n := 99 }) (fun t => t.phase) =
      some .wBuf := by decide

/-! ### The CR words (R155 to R159) -/

theorem test_cr_words :
    seen (exec .crStart launched0) (fun t => t.trace) = some [.regWrite 0 .cr 0x1] ∧
    seen (exec .crStop launched0) (fun t => t.trace) = some [.regWrite 0 .cr 0x2] ∧
    seen (exec .crStartStop launched0) (fun t => t.trace) = some [.regWrite 0 .cr 0x3] ∧
    seen (exec .crMsen launched0) (fun t => t.trace) = some [.regWrite 0 .cr 0x4] := by decide

/-- U15. -/
theorem test_cr_msdis_refused :
    refusal (exec .crMsdis launched0) = some .masterDisableNeverWritten := by decide

/-! ### Refusals at acceptance (V-X4 to V-X8) and their accepted neighbours -/

theorem test_refused_operands :
    refusal (step (presented launched0 0x0000000000001416 [])) = some .zeroLength ∧
    refusal (step (presented launched0 0x0000000000021412 [])) = some .invalidHandle ∧
    refusal (step (presented launched0 0x000000000002141E [])) = some .invalidHandle := by decide

theorem test_refused_uninitialised :
    refusal (step (presented State.reset 0x0000000000021416 [])) = some .uninitialisedHandle ∧
    refusal (step (presented launched0 0x000000000003141B [])) = some .uninitialisedHandle := by decide

theorem test_accepted_neighbours :
    seen (step (presented launched0 0x0000000000011416 [])) (fun t => t.phase) = some .wMmr ∧
    seen (step (presented launched1 0x000000000002141A [])) (fun t => t.c) = some 1 ∧
    seen (step (presented launched1 0x000000000003141B [])) (fun t => t.phase) = some .rMmr := by decide

/-! ### Placing a word for the next step -/

theorem test_placed_init :
    seen (step (State.reset.withFetchWord 64 0x0001D0D000000005)) (fun t => (t.phase, t.per)) =
      some (.iClk, 0x1D0D0) := by decide

theorem test_placed_cr :
    seen (step (State.reset.withFetchWord 32 0x00000004)) (fun t => t.trace) = some [.regWrite 0 .cr 0x4] ∧
    seen (step (State.reset.withFetchWord 32 0x00000001)) (fun t => t.trace) = some [.regWrite 0 .cr 0x1] ∧
    seen (step (State.reset.withFetchWord 32 0x00000002)) (fun t => t.trace) = some [.regWrite 0 .cr 0x2] ∧
    seen (step (State.reset.withFetchWord 32 0x00000003)) (fun t => t.trace) =
      some [.regWrite 0 .cr 0x3] := by decide

theorem test_table_word :
    decodeTableWord 64 0x0000000000021416 = some (.masterWrite 1 1 0x50 2 0) ∧
    decodeTableWord 32 0x00000008 = some .crMsdis ∧ decodeTableWord 0 0 = none := ⟨rfl, rfl, rfl⟩

/-! ### The host buffer -/

theorem test_buffer_write :
    Memory.write [(0, 0xEE), (2, 0xEE)] 1 0x11 = [(0, 0xEE), (1, 0x11), (2, 0xEE)] ∧
    Memory.write [(0, 0xEE), (2, 0xEE)] 2 0x11 = [(0, 0xEE), (2, 0x11)] := by decide

theorem test_buffer_wf :
    Memory.wf [(0, 0xEE), (2, 0xEE)] = true ∧ Memory.wf [(2, 0xEE), (2, 0xEE)] = false := by decide

/-! ### Witnesses: every obligation with hypotheses has a case that meets them -/

theorem witness_DecodeOfEncode :
    encode (.masterRead 2 3 0x3FF 2 0xABCDEF) = some (.command 0x00ABCDEF0002FFFB) := by rfl

theorem witness_EncodeOfDecode :
    decode (.command 0x00ABCDEF0002FFFB) = .ok (.masterRead 2 3 0x3FF 2 0xABCDEF) ∧
    decode (.cr 0x00000008) = .ok .crMsdis := ⟨rfl, rfl⟩

theorem witness_StepRunsInstruction :
    (let s := presented launched0 0x0000000000021416 [0xAA, 0xBB]
     s.phase = .idle ∧ s.port = lend 0x0000000000021416 [0xAA, 0xBB] :: [] ∧
       decodeCommand (lend 0x0000000000021416 [0xAA, 0xBB]).word = .ok (.masterWrite 1 1 0x50 2 0)) ∧
    (writing .wMmr 0 2 []).phase ≠ .idle ∧
    (State.reset.phase = .idle ∧ State.reset.port = []) := ⟨⟨rfl, rfl, rfl⟩, by decide, rfl, rfl⟩

/-- The two sides of every clause: words refused (above, `test_refused_…`) and one accepted. -/
theorem witness_RefusedCommands :
    (presented State.reset 0 []).phase = .idle ∧ (presented State.reset 0 []).port = lend 0 [] :: [] ∧
    refusal (step (presented State.reset 0 [])) = some (.illegalCommand .reservedOp) ∧
    refusal (step (presented State.reset 0x0000001000000401 [])) =
      some (.illegalCommand .reservedInitBits) ∧
    refusal (step (presented State.reset 0x0100000000021416 [])) =
      some (.illegalCommand .reservedTransactionBits) ∧
    refusal (step (presented State.reset 0x0000001000000009 [])) = none := by decide

theorem witness_OperandsLatched :
    (∃ t, step (presented State.reset 0x0000001000000001 []) = .next t) ∧
    (∃ t, step (presented State.reset 0x0000001000000005 []) = .next t) ∧
    (∃ t, step (presented launched0 0x0000000000021416 [0xAA, 0xBB]) = .next t) ∧
    (∃ t, step (presented launched1 0x00ABCDEF0002FFFB []) = .next t) :=
  ⟨⟨_, rfl⟩, ⟨_, rfl⟩, ⟨_, rfl⟩, ⟨_, rfl⟩⟩

theorem witness_AcceptanceFrame :
    (presented launched0 0x0000000000021416 [0xAA]).phase = .idle ∧
    (presented launched0 0x0000000000021416 [0xAA]).port = lend 0x0000000000021416 [0xAA] :: [] ∧
    ∃ t, step (presented launched0 0x0000000000021416 [0xAA]) = .next t := ⟨rfl, rfl, _, rfl⟩

theorem witness_BusyPortHeld :
    (∃ t, step (writing .wThr 0 2 []) = .next t) ∧ (writing .wThr 0 2 []).phase ≠ .idle ∧
    (reading .rBuf 0 2 []).phase.ofTransaction = true ∧ (initialising .iClk).phase.ofInit = true ∧
    (writing .wThr 0 2 []).phase.ofWrite = true ∧ (reading .rBuf 0 2 []).phase.ofRead = true :=
  ⟨⟨_, rfl⟩, by decide, by decide, by decide, by decide, by decide⟩

theorem witness_OneEventPerPhase :
    (∃ t, step (reading .rRhr 1 2 []) = .next t) ∧ step State.reset = .next State.reset :=
  ⟨⟨_, rfl⟩, rfl⟩

theorem witness_InitAccepted :
    State.reset.phase = .idle ∧ ((0 : BitVec 8) = 0 ∨ (0 : BitVec 8) = 1) ∧
    ((1 : BitVec 8) = 0 ∨ (1 : BitVec 8) = 1) := by decide

theorem witness_InitInvalidSelector :
    State.reset.phase = .idle ∧ ((2 : BitVec 8) ≠ 0 ∧ (2 : BitVec 8) ≠ 1) ∧
    ((255 : BitVec 8) ≠ 0 ∧ (255 : BitVec 8) ≠ 1) := by decide

theorem witness_InitEvents :
    (initialising .iClk).phase = .iClk ∧ (initialising .iCwgr).phase = .iCwgr ∧
    (initialising .rsp).phase = .rsp := by decide

theorem witness_InitFrame :
    (∃ t, exec (.init 0 0x10) State.reset = .next t) ∧
    (∃ t, exec (.init 1 0x1D0D0) (initialising .iCwgr) = .next t) := ⟨⟨_, rfl⟩, ⟨_, rfl⟩⟩

theorem witness_InitRun :
    (presented launched0 0x0001D0D000000005 []).phase = .idle ∧
    (presented launched0 0x0001D0D000000005 []).port = lend 0x0001D0D000000005 [] :: [] ∧
    decodeCommand (lend 0x0001D0D000000005 []).word = .ok (.init 1 0x1D0D0) ∧
    decodeCommand (lend 0x0000001000000001 []).word = .ok (.init 0 0x10) := ⟨rfl, rfl, rfl, rfl⟩

theorem witness_InvalidInitRun :
    (presented launched0 0x0000001000000009 []).phase = .idle ∧
    (presented launched0 0x0000001000000009 []).port = lend 0x0000001000000009 [] :: [] ∧
    decodeCommand (lend 0x0000001000000009 []).word = .ok (.init 2 0x10) ∧
    decodeCommand (lend 0x00000000000003FD []).word = .ok (.init 255 0) := ⟨rfl, rfl, rfl, rfl⟩

/-- The premises hold at the first and at the last poll, and each of the five cases occurs. -/
theorem witness_WriteWaitPoll :
    (writing .wPoll 0 2 [0x100]).phase = .wPoll ∧ (0 : Nat) < Config.pollMax ∧
    ({ writing .wPoll 1 2 [0x0] with n := 99 } : State).n.toNat < Config.pollMax ∧
    (writing .wPoll 1 2 []).i.toNat < (writing .wPoll 1 2 []).len.toNat ∧
    (writing .wPoll 0 2 [0x104]).srAnswer &&& 0x100 ≠ 0 ∧
    (writing .wPoll 0 2 [0x4]).srAnswer &&& 0x100 = 0 ∧
    (writing .wPoll 0 2 [0x4]).srAnswer &&& 0x4 ≠ 0 ∧
    (writing .wPoll 0 2 [0x2]).srAnswer &&& 0x4 = 0 := by decide

theorem witness_ReadWaitPoll :
    (reading .rPoll 0 2 [0x102]).phase = .rPoll ∧
    ({ reading .rPoll 1 2 [0x0] with n := 99 } : State).n.toNat < Config.pollMax ∧
    (reading .rPoll 0 2 [0x102]).srAnswer &&& 0x100 ≠ 0 ∧
    (reading .rPoll 0 2 [0x2]).srAnswer &&& 0x2 ≠ 0 ∧
    (reading .rPoll 0 2 [0x4]).srAnswer &&& 0x2 = 0 := by decide

theorem witness_WaitDelay :
    (writing .wDelay 0 2 []).phase = delayPhase .txrdy ∧
    (reading .rDelay 0 2 []).phase = delayPhase .rxrdy := by decide

theorem witness_WaitCall :
    (writing .wThr 0 2 []).phase ≠ pollPhase .txrdy ∧ (writing .wThr 0 2 []).phase ≠ delayPhase .txrdy ∧
    (reading .rStart 0 2 []).phase ≠ pollPhase .rxrdy ∧
    (reading .rStart 0 2 []).phase ≠ delayPhase .rxrdy := by decide

theorem witness_PollPriority :
    (writing .wPoll 0 2 [0x104]).phase = pollPhase .txrdy ∧
    (writing .wPoll 0 2 [0x104]).n.toNat < Config.pollMax ∧
    (∃ t, exec (.waitFor .txrdy) (writing .wPoll 0 2 [0x104]) = .next t) ∧
    (∃ t, exec (.waitFor .txrdy) { writing .wPoll 0 2 [0x4] with n := 99 } = .next t) ∧
    (∃ t, exec (.waitFor .rxrdy) { reading .rPoll 0 2 [0x0] with n := 99 } = .next t) ∧
    (∃ t, exec (.waitFor .rxrdy) (reading .rPoll 0 2 [0x0]) = .next t) :=
  ⟨by decide, by decide, ⟨_, rfl⟩, ⟨_, rfl⟩, ⟨_, rfl⟩, ⟨_, rfl⟩⟩

/-- Two values that agree on NACK and TXRDY and differ elsewhere (V-P12's mask). -/
theorem witness_UnusedStatusBitsIgnored :
    (writing .wPoll 0 2 [0xFFFFFEFD]).phase = pollPhase .txrdy ∧
    (writing .wPoll 0 2 [0xFFFFFEFD]).srAnswers = 0xFFFFFEFD :: [] ∧
    (0xFFFFFEFD : Word) &&& (nackMask ||| readyMask .txrdy) =
      0x00000004 &&& (nackMask ||| readyMask .txrdy) := by decide

/-- V-P11: TXRDY asked for, RXRDY answered a hundred times. -/
theorem witness_UnusedStatusBitsIgnored_timeout :
    (writing .wPoll 0 2 (List.replicate Config.pollMax 0x2 ++ [])).phase = pollPhase .txrdy ∧
    (writing .wPoll 0 2 (List.replicate Config.pollMax 0x2 ++ [])).n = 0 ∧
    (writing .wPoll 0 2 (List.replicate Config.pollMax 0x2 ++ [])).srAnswers =
      List.replicate Config.pollMax 0x00000002 ++ [] := ⟨rfl, rfl, rfl⟩

theorem witness_WaitForFrame :
    (∃ t, exec (.waitFor .txrdy) (writing .wPoll 0 2 [0x4]) = .next t) ∧
    (∃ t, exec (.waitFor .txrdy) (writing .wDelay 0 2 []) = .next t) ∧
    (∃ t, exec (.waitFor .rxrdy) (reading .rStart 0 2 []) = .next t) ∧
    seen (exec (.waitFor .txrdy) (writing .wPoll 0 2 [0x0])) (fun t => t.phase) =
      some (delayPhase .txrdy) := ⟨⟨_, rfl⟩, ⟨_, rfl⟩, ⟨_, rfl⟩, by decide⟩

theorem witness_WaitRowsAreThePseudocode :
    (writing .wPoll 0 2 [0x4]).phase = pollPhase .txrdy ∧ (writing .wPoll 0 2 [0x4]).n = 0 ∧
    (reading .rPoll 0 2 [0x2]).phase = pollPhase .rxrdy ∧ (reading .rPoll 0 2 [0x2]).n = 0 := by decide

/-- V-P6, and V-P9 whose 100th value decides. -/
theorem witness_WaitEndsAtDecisiveAnswer :
    (let s := writing .wPoll 0 2 ([0x0, 0x0] ++ 0x4 :: [])
     s.phase = pollPhase .txrdy ∧ s.n = 0 ∧ s.i.toNat < s.len.toNat ∧
       s.srAnswers = [0x0, 0x0] ++ 0x4 :: [] ∧ ([0x0, 0x0] : List Word).length < Config.pollMax ∧
       (∀ w ∈ ([0x0, 0x0] : List Word), nackSet w = false ∧ readySet .txrdy w = false) ∧
       readySet .txrdy 0x4 = true) ∧
    ((List.replicate 99 (0x0 : Word)).length + 1 = Config.pollMax ∧
      ∀ w ∈ List.replicate 99 (0x0 : Word), nackSet w = false ∧ readySet .txrdy w = false) := by
  refine ⟨⟨rfl, rfl, by decide, rfl, by decide, by simp [nackSet, readySet, nackMask, readyMask], rfl⟩,
    by simp [Config.pollMax], fun w h => ?_⟩
  rw [List.eq_of_mem_replicate h]; decide

theorem witness_WriteAccepted :
    launched0.phase = .idle ∧ (launched0.slot (channelOfHandle 1)).initDone = true ∧
    launched1.phase = .idle ∧ (launched1.slot (channelOfHandle 2)).initDone = true ∧
    (1 : BitVec 16) ≠ 0 := by decide

theorem witness_ReadAccepted :
    launched0.phase = .idle ∧ (launched0.slot (channelOfHandle 1)).initDone = true ∧
    launched1.phase = .idle ∧ (launched1.slot (channelOfHandle 2)).initDone = true ∧
    (0xFFFF : BitVec 16) ≠ 0 := by decide

theorem witness_WriteSetUp :
    (writing .wMmr 0 2 []).phase = .wMmr ∧ (writing .wIadr 0 2 []).phase = .wIadr ∧
    (writing .wMsen 0 2 []).phase = .wMsen ∧ (writing .wStart 0 2 []).phase = .wStart := by decide

theorem witness_WriteByte :
    ((writing .wBuf 0 1 []).phase = .wBuf ∧ (writing .wBuf 0 1 []).i.toNat < 1) ∧
    ((writing .wThr 0 2 []).phase = .wThr ∧ (writing .wThr 0 2 []).i.toNat + 1 ≠ 2) ∧
    ((writing .wThr 1 2 []).phase = .wThr ∧ (writing .wThr 1 2 []).i.toNat + 1 = 2) ∧
    (writing .wLstop 1 2 []).phase = .wLstop := by decide

theorem witness_WriteCallsWaitFor :
    (writing .wPoll 0 2 []).phase = .wPoll ∧ (writing .wDelay 0 2 []).phase = .wDelay := by decide

theorem witness_ForcedStopAndResponse :
    (writing .wFstop 0 2 []).phase = .wFstop ∧ (reading .rFstop 0 2 []).phase = .rFstop ∧
    (writing .rsp 0 2 []).phase = .rsp := by decide

theorem witness_WriteFrame :
    (∃ t, exec (.masterWrite 1 1 0x50 2 0) launched0 = .next t) ∧
    (∃ t, exec (.masterWrite 1 1 0x50 2 0) (writing .wThr 1 2 []) = .next t) ∧
    (∃ t, exec (.masterWrite 1 1 0x50 2 0) (writing .wPoll 1 2 [0x4]) = .next t) :=
  ⟨⟨_, rfl⟩, ⟨_, rfl⟩, ⟨_, rfl⟩⟩

theorem witness_WriteRefinesPseudocode :
    let s := presented launched0 0x0000000000021416 [0xAA, 0xBB]
    s.phase = .idle ∧ s.port = lend 0x0000000000021416 [0xAA, 0xBB] :: [] ∧
    decodeCommand (lend 0x0000000000021416 [0xAA, 0xBB]).word = .ok (.masterWrite 1 1 0x50 2 0) ∧
    (2 : BitVec 16) ≠ 0 ∧ (s.slot (channelOfHandle 1)).initDone = true :=
  ⟨rfl, rfl, rfl, by decide, rfl⟩

theorem witness_WriteFraming :
    let s := presented launched1 0x0000123400011A2A [0x7F]
    s.phase = .idle ∧ s.port = lend 0x0000123400011A2A [0x7F] :: [] ∧
    decodeCommand (lend 0x0000123400011A2A [0x7F]).word = .ok (.masterWrite 2 2 0x68 1 0x1234) ∧
    (1 : BitVec 16) ≠ 0 ∧ (s.slot (channelOfHandle 2)).initDone = true :=
  ⟨rfl, rfl, rfl, by decide, rfl⟩

theorem witness_WriteSendsBufferInOrder :
    let cmd := lend 0x0000000000021416 [0xAA, 0xBB]
    let s := presented launched0 0x0000000000021416 [0xAA, 0xBB]
    s.phase = .idle ∧ s.port = cmd :: [] ∧
    decodeCommand cmd.word = .ok (.masterWrite 1 1 0x50 2 0) ∧ (2 : BitVec 16) ≠ 0 ∧
    (s.slot (channelOfHandle 1)).initDone = true ∧
    ([0xAA, 0xBB] : List Byte).length = (2 : BitVec 16).toNat ∧
    ∀ k, cmd.lent.read k = ([0xAA, 0xBB] : List Byte)[k]? := by
  refine ⟨rfl, rfl, rfl, by decide, rfl, rfl, fun k => ?_⟩
  match k with
  | 0 => rfl
  | 1 => rfl
  | k + 2 => simp [lend, Memory.read, List.range, List.range.loop]

theorem witness_ReadSetUp :
    (reading .rMmr 0 2 []).phase = .rMmr ∧ (reading .rIadr 0 2 []).phase = .rIadr ∧
    (reading .rStart 0 1 []).phase = .rStart := by decide

/-- The last byte of one, the last of two, and one that is not the last. -/
theorem witness_ReadByte :
    (reading .rRhr 0 2 []).phase = .rRhr ∧
    ((reading .rBuf 0 1 []).phase = .rBuf ∧ (reading .rBuf 0 1 []).i.toNat + 1 = 1) ∧
    ((reading .rBuf 1 2 []).phase = .rBuf ∧ (reading .rBuf 1 2 []).i.toNat + 1 = 2) ∧
    ((reading .rBuf 0 2 []).phase = .rBuf ∧ (reading .rBuf 0 2 []).i.toNat + 1 < 2) ∧
    (reading .rLstop 1 2 []).phase = .rLstop := by decide

theorem witness_ReadCallsWaitFor :
    (reading .rPoll 0 2 []).phase = .rPoll ∧ (reading .rDelay 0 2 []).phase = .rDelay := by decide

theorem witness_ReadFrame :
    (∃ t, exec (.masterRead 1 1 0x50 2 0) launched0 = .next t) ∧
    (∃ t, exec (.masterRead 1 1 0x50 2 0) (reading .rBuf 1 2 []) = .next t) ∧
    (∃ t, exec (.masterRead 1 1 0x50 2 0) (reading .rPoll 1 2 [0x2]) = .next t) :=
  ⟨⟨_, rfl⟩, ⟨_, rfl⟩, ⟨_, rfl⟩⟩

theorem witness_ReadRefinesPseudocode :
    let s := presented launched0 0x0000000000031417 [0, 0, 0]
    s.phase = .idle ∧ s.port = lend 0x0000000000031417 [0, 0, 0] :: [] ∧
    decodeCommand (lend 0x0000000000031417 [0, 0, 0]).word = .ok (.masterRead 1 1 0x50 3 0) ∧
    (3 : BitVec 16) ≠ 0 ∧ (s.slot (channelOfHandle 1)).initDone = true :=
  ⟨rfl, rfl, rfl, by decide, rfl⟩

theorem witness_ReadFraming :
    let s := presented launched0 0x0000000000011417 [0]
    s.phase = .idle ∧ s.port = lend 0x0000000000011417 [0] :: [] ∧
    decodeCommand (lend 0x0000000000011417 [0]).word = .ok (.masterRead 1 1 0x50 1 0) ∧
    (1 : BitVec 16) ≠ 0 ∧ (s.slot (channelOfHandle 1)).initDone = true :=
  ⟨rfl, rfl, rfl, by decide, rfl⟩

theorem witness_ReadFillsBufferInOrder :
    let s := presented launched1 0x00ABCDEF0002FFFB [0, 0]
    s.phase = .idle ∧ s.port = lend 0x00ABCDEF0002FFFB [0, 0] :: [] ∧
    decodeCommand (lend 0x00ABCDEF0002FFFB [0, 0]).word = .ok (.masterRead 2 3 0x3FF 2 0xABCDEF) ∧
    (2 : BitVec 16) ≠ 0 ∧ (s.slot (channelOfHandle 2)).initDone = true :=
  ⟨rfl, rfl, rfl, by decide, rfl⟩

theorem witness_StepKeepsInvariant :
    (writing .wPoll 1 2 [0x4]).Inv ∧ ∃ t, step (writing .wPoll 1 2 [0x4]) = .next t := by
  refine ⟨?_, _, rfl⟩
  unfold State.Inv; decide

theorem witness_NeverStuck : (reading .rBuf 1 2 []).Inv ∧ (presented State.reset 0 []).Inv := by
  unfold State.Inv; decide

theorem witness_EveryCommandEnds : (reading .rDelay 0 2 []).Inv := by unfold State.Inv; decide

theorem witness_TraceStaysLegal :
    ({ writing .wThr 0 2 [] with trace := [.regWrite 0 .cr 0x1] } : State).traceLegal = true ∧
    ∃ t, step { writing .wThr 0 2 [] with trace := [.regWrite 0 .cr 0x1] } = .next t :=
  ⟨by decide, _, rfl⟩

theorem witness_OnlyFourCrWords :
    (∀ v ∈ crWords [.regWrite 0 .cr 0x3], v = 0x1 ∨ v = 0x2 ∨ v = 0x3 ∨ v = 0x4) ∧
    ∃ t, step { reading .rPoll 0 2 [0x2] with trace := [.regWrite 0 .cr 0x3] } = .next t :=
  ⟨by simp [crWords], _, rfl⟩

theorem witness_FailedTransactionEndsInStop :
    ({ writing .rsp 0 2 [] with result := 0xFFFFFFFF, trace := [.regWrite 0 .cr 0x2] } : State).faultsFramed
      = true ∧
    ∃ t, step { writing .rsp 0 2 [] with result := 0xFFFFFFFF, trace := [.regWrite 0 .cr 0x2] } =
      .next t := ⟨by decide, _, rfl⟩

theorem witness_InitDoneNeverCleared :
    (launched0.slot 0).initDone = true ∧ (∃ t, step launched0 = .next t) ∧
    seen (step (initialising .iCwgr)) (fun t => decide (t.slot 1 ≠ (initialising .iCwgr).slot 1)) =
      some true := ⟨rfl, ⟨_, rfl⟩, by decide⟩

theorem witness_ClockOnBeforeRegisterAccess :
    (writing .wMsen 0 2 []).Inv ∧ step (writing .wMsen 0 2 []) =
      .next { writing .wStart 0 2 [] with trace := (writing .wMsen 0 2 []).trace ++
        [.regWrite 0 .cr 0x4] } := by
  refine ⟨?_, rfl⟩
  unfold State.Inv; decide

/-- Two idle states that differ in every dead latch. -/
theorem witness_DeadLatchesUnread :
    let s := presented launched0 0x0000000000021416 [0xAA, 0xBB]
    ({ s with op := 3, c := 1, per := 7, sadr := 9, iasz := 2, iaddr := 4, len := 5, rd := 1, i := 6,
              n := 8, b := 1, result := 3 } : State).liveView = s.liveView ∧
    ∃ t, step s = .next t := ⟨rfl, _, rfl⟩

theorem witness_OracleNeverBlocks : (writing .wPoll 0 2 [0x4]).Inv := by unfold State.Inv; decide

theorem witness_OtherChannelUntouched :
    (∃ t, step (writing .wMmr 0 2 []) = .next t) ∧ (1 : Channel) ≠ (writing .wMmr 0 2 []).c :=
  ⟨⟨_, rfl⟩, by decide⟩

end Sys2Proof.Tests
end

section
/-! SUPPORT. The rules about the banked state the proofs of 10_state.md cite: what the operations that
no law of State or Ops speaks of do to a slot, a block and a gate, and the banked fields by name. -/

namespace Sys2Proof.Machine

variable (s : State)

/-! ### The shared operations in terms of the elementary updates -/

@[simp] theorem clockEnable_eq (c : Channel) :
    s.clockEnable c = (s.enableGate c).emit (.clkEn (Config.pid c)) := rfl
@[simp] theorem bufWrite_eq (k : Nat) (x : Byte) :
    s.bufWrite k x = { s with buffer := s.buffer.write k x }.emit (.bufWrite k x) := rfl
@[simp] theorem enterWait_eq (ready : ReadyBit) :
    s.enterWait ready = { s with n := 0 }.goto (pollPhase ready) := rfl
@[simp] theorem raiseFault_eq (ready : ReadyBit) (code : Word) :
    s.raiseFault ready code = { s with result := code }.goto (forcedStopPhase ready) := rfl
@[simp] theorem poll_eq : s.poll = { s.readSr s.c with n := s.n + 1 } := rfl
@[simp] theorem delayRow_eq (ready : ReadyBit) :
    s.delayRow ready = (s.emit (.delay Config.pollDelay)).goto (pollPhase ready) := rfl
@[simp] theorem respond_eq : s.respond = (s.emit (.rsp s.result)).goto .idle := rfl

/-! ### Banked fields by name -/

@[simp] theorem setSlot_slot0 (c : Channel) (v : Slot) :
    (s.setSlot c v).slot0 = if c = 0 then v else s.slot0 := by
  unfold State.setSlot; split <;> rfl

@[simp] theorem setSlot_slot1 (c : Channel) (v : Slot) :
    (s.setSlot c v).slot1 = if c = 0 then s.slot1 else v := by
  unfold State.setSlot; split <;> rfl

@[simp] theorem enableGate_gate0 (c : Channel) :
    (s.enableGate c).gate0 = if c = 0 then .enabled else s.gate0 := by
  unfold State.enableGate; split <;> rfl

@[simp] theorem enableGate_gate1 (c : Channel) :
    (s.enableGate c).gate1 = if c = 0 then s.gate1 else .enabled := by
  unfold State.enableGate; split <;> rfl

@[simp] theorem regWrite_blk0 (c : Channel) (r : Reg) (v : Word) :
    (s.regWrite c r v).blk0 = if c = 0 then s.blk0.write r v else s.blk0 := by
  unfold State.regWrite State.setBlk State.blk; split <;> rfl

@[simp] theorem regWrite_blk1 (c : Channel) (r : Reg) (v : Word) :
    (s.regWrite c r v).blk1 = if c = 0 then s.blk1 else s.blk1.write r v := by
  unfold State.regWrite State.setBlk State.blk; split <;> rfl

/-! ### Slots, blocks and gates an operation leaves alone -/

@[simp] theorem slot_emit (e : Event) (c : Channel) : (s.emit e).slot c = s.slot c := rfl
@[simp] theorem blk_emit (e : Event) (c : Channel) : (s.emit e).blk c = s.blk c := rfl
@[simp] theorem gate_emit (e : Event) (c : Channel) : (s.emit e).gate c = s.gate c := rfl
@[simp] theorem slot_goto (p : Phase) (c : Channel) : (s.goto p).slot c = s.slot c := rfl
@[simp] theorem blk_goto (p : Phase) (c : Channel) : (s.goto p).blk c = s.blk c := rfl
@[simp] theorem gate_goto (p : Phase) (c : Channel) : (s.goto p).gate c = s.gate c := rfl
@[simp] theorem slot_enableGate (c c' : Channel) : (s.enableGate c).slot c' = s.slot c' := by
  simp [State.slot]
@[simp] theorem blk_enableGate (c c' : Channel) : (s.enableGate c).blk c' = s.blk c' := by
  simp [State.blk]
@[simp] theorem blk_setSlot (c c' : Channel) (v : Slot) : (s.setSlot c v).blk c' = s.blk c' := by
  simp [State.blk]
@[simp] theorem gate_setSlot (c c' : Channel) (v : Slot) : (s.setSlot c v).gate c' = s.gate c' := by
  simp [State.gate]

end Sys2Proof.Machine
end

section
/-! SUPPORT. What the rows of R25 below `IDLE` leave unchanged, field by field (10_state.md R22, R24, R36,
R39), and the event each performs (R23). -/

namespace Sys2Proof.Machine

variable {s t : State}

/-! ### Registers -/

/-- The register a phase writes (R23); `CR`, which stores nothing (R29), where it writes no other. -/
def Phase.writes : Phase → Reg
  | .iCwgr => .cwgr
  | .wMmr | .rMmr => .mmr
  | .wIadr | .rIadr => .iadr
  | .wThr => .thr
  | _ => .cr

theorem writes_eq_mmr {p : Phase} : p.writes = .mmr ↔ p = .wMmr ∨ p = .rMmr := by
  cases p <;> decide

theorem writes_eq_iadr {p : Phase} : p.writes = .iadr ↔ p = .wIadr ∨ p = .rIadr := by
  cases p <;> decide

theorem writes_eq_thr {p : Phase} : p.writes = .thr ↔ p = .wThr := by
  cases p <;> decide

theorem write_mmr_of_ne (k : RegBlock) {r : Reg} (v : Word) (h : r ≠ .mmr) :
    (k.write r v).mmr = k.mmr := by
  cases r <;> simp_all [RegBlock.write]

theorem write_iadr_of_ne (k : RegBlock) {r : Reg} (v : Word) (h : r ≠ .iadr) :
    (k.write r v).iadr = k.iadr := by
  cases r <;> simp_all [RegBlock.write]

theorem write_thr_of_ne (k : RegBlock) {r : Reg} (v : Word) (h : r ≠ .thr) :
    (k.write r v).thr = k.thr := by
  cases r <;> simp_all [RegBlock.write]

theorem blk_regWrite_cr (s : State) (c c' : Channel) (v : Word) :
    (s.regWrite c .cr v).blk c' = s.blk c' := by
  rw [regWrite_cr]; rfl

/-- A row writes at most one register, the one its phase names, and of the latched channel only. -/
theorem row_blk (h : Row s t) : ∃ v, ∀ c, t.blk c = (s.regWrite s.c s.phase.writes v).blk c := by
  cases h
  case iCwgr h => exact ⟨s.per, fun c => by simp [h, Phase.writes, State.blk]⟩
  case wMmr h | wIadr h | wMsen h | wStart h | wThrLast h _ | wThrMore h _ | wLstop h | wFstop h |
      rMmr h | rIadr h | rStart h | rLstop h | rFstop h =>
    exact ⟨_, fun c => by rw [h]; rfl⟩
  case iClk h => exact ⟨0, fun c => by simp [h, Phase.writes, blk_regWrite_cr]⟩
  case pollAgain ready h _ _ | pollNoAck ready h _ _ | pollTimeout ready h _ _ | delay ready h =>
    exact ⟨0, fun c => by cases ready <;> rw [h] <;> exact (blk_regWrite_cr s s.c c 0).symm⟩
  case wBuf h _ | wPollLast h _ _ _ | wPollMore h _ _ _ | rPollOk h _ _ | rRhr h | rBufMore h _ |
      rBufOnly h _ _ | rBufLast h _ _ | rsp h =>
    exact ⟨0, fun c => by rw [h]; exact (blk_regWrite_cr s s.c c 0).symm⟩

theorem row_blk_ne (h : Row s t) {c : Channel} (hc : c ≠ s.c) : t.blk c = s.blk c := by
  obtain ⟨v, hv⟩ := row_blk h
  rw [hv, blk_regWrite_ne s _ v hc]

theorem row_mmr (h : Row s t) (h1 : s.phase ≠ .wMmr) (h2 : s.phase ≠ .rMmr) (c : Channel) :
    (t.blk c).mmr = (s.blk c).mmr := by
  by_cases hc : c = s.c
  · obtain ⟨v, hv⟩ := row_blk h
    rw [hv, hc, blk_regWrite, write_mmr_of_ne]
    exact fun hw => (writes_eq_mmr.1 hw).elim h1 h2
  · rw [row_blk_ne h hc]

theorem row_iadr (h : Row s t) (h1 : s.phase ≠ .wIadr) (h2 : s.phase ≠ .rIadr) (c : Channel) :
    (t.blk c).iadr = (s.blk c).iadr := by
  by_cases hc : c = s.c
  · obtain ⟨v, hv⟩ := row_blk h
    rw [hv, hc, blk_regWrite, write_iadr_of_ne]
    exact fun hw => (writes_eq_iadr.1 hw).elim h1 h2
  · rw [row_blk_ne h hc]

theorem row_thr (h : Row s t) (h1 : s.phase ≠ .wThr) (c : Channel) :
    (t.blk c).thr = (s.blk c).thr := by
  by_cases hc : c = s.c
  · obtain ⟨v, hv⟩ := row_blk h
    rw [hv, hc, blk_regWrite, write_thr_of_ne]
    exact fun hw => h1 (writes_eq_thr.1 hw)
  · rw [row_blk_ne h hc]

/-! ### Slots, gates and CWGR in the rows of `INIT`; `row_registry` speaks of all others -/

theorem iClk_registry (hp : s.phase = .iClk) (hs : step s = .next t) (c : Channel) :
    t.slot c = s.slot c ∧ t.gate c = (if c = s.c then .enabled else s.gate c) ∧
      (t.blk c).cwgr = (s.blk c).cwgr := by
  rw [step_iClk hp] at hs
  cases hs
  by_cases hc : c = s.c
  · simp [hc]
  · simp [hc, gate_enableGate_ne s hc]

theorem iCwgr_registry (hp : s.phase = .iCwgr) (hs : step s = .next t) (c : Channel) :
    t.slot c = (if c = s.c then { initDone := true, cwgrCfg := s.per } else s.slot c) ∧
      t.gate c = s.gate c ∧ (t.blk c).cwgr = (if c = s.c then s.per else (s.blk c).cwgr) := by
  rw [step_iCwgr hp] at hs
  cases hs
  let u := (s.regWrite s.c .cwgr s.per).setSlot s.c { initDone := true, cwgrCfg := s.per }
  show u.slot c = _ ∧ u.gate c = _ ∧ (u.blk c).cwgr = _
  by_cases hc : c = s.c
  · simp [u, hc, RegBlock.write]
  · simp [u, hc, slot_setSlot_ne _ _ hc, blk_regWrite_ne s _ _ hc]

/-! ### Latches, counters, buffer and answers -/

/-- What a busy step keeps: the latches and the port in every phase (R22, R26), each other field outside the
phases that use it (R24, R39, R62). -/
structure RowFrame (s t : State) : Prop where
  op : t.op = s.op
  c : t.c = s.c
  per : t.per = s.per
  sadr : t.sadr = s.sadr
  iasz : t.iasz = s.iasz
  iaddr : t.iaddr = s.iaddr
  len : t.len = s.len
  rd : t.rd = s.rd
  port : t.port = s.port
  i : s.phase ≠ .wStart → s.phase ≠ .wPoll → s.phase ≠ .rStart → s.phase ≠ .rBuf → t.i = s.i
  n : s.phase ≠ .wThr → s.phase ≠ .wLstop → s.phase ≠ .wPoll → s.phase ≠ .rStart → s.phase ≠ .rPoll →
    s.phase ≠ .rBuf → t.n = s.n
  b : s.phase ≠ .wBuf → s.phase ≠ .rRhr → t.b = s.b
  result : s.phase ≠ .iCwgr → s.phase ≠ .wPoll → s.phase ≠ .rPoll → s.phase ≠ .rBuf →
    s.phase ≠ .rLstop → t.result = s.result
  buffer : s.phase ≠ .rBuf → t.buffer = s.buffer
  srAnswers : s.phase ≠ .wPoll → s.phase ≠ .rPoll → t.srAnswers = s.srAnswers
  rhrAnswers : s.phase ≠ .rRhr → t.rhrAnswers = s.rhrAnswers
  draws : s.phase ≠ .wPoll → s.phase ≠ .rPoll → s.phase ≠ .wBuf → s.phase ≠ .rRhr → t.draws = s.draws

theorem pollPhase_cases (ready : ReadyBit) : pollPhase ready = .wPoll ∨ pollPhase ready = .rPoll := by
  cases ready <;> decide

theorem row_frame (h : Row s t) : RowFrame s t := by
  cases h
  case pollAgain ready h _ _ | pollNoAck ready h _ _ | pollTimeout ready h _ _ =>
    rcases pollPhase_cases ready with hp | hp <;> rw [hp] at h <;> constructor <;> simp [h]
  all_goals constructor <;> simp [*]

theorem row_buffer (h : Row s t) : t.buffer = s.buffer ∨ t.buffer = s.buffer.write s.i.toNat s.b := by
  cases h <;> simp

/-- A busy step writes no buffer byte but the one at `i` (R58, R148). -/
theorem row_buffer_read (h : Row s t) {k : Nat} (hk : k ≠ s.i.toNat) :
    t.buffer.read k = s.buffer.read k := by
  rcases row_buffer h with hb | hb <;> rw [hb]
  exact Memory.read_write_ne _ _ hk

/-! ### Events -/

/-- A busy step performs the event of its phase in the table of R23. -/
theorem row_event (h : Row s t) : ∃ e, s.nextEvent = some e ∧ t.trace = s.trace ++ [e] := by
  cases h
  case pollAgain ready h _ _ | pollNoAck ready h _ _ | pollTimeout ready h _ _ | delay ready h =>
    cases ready <;> simp [State.nextEvent, h, pollPhase, delayPhase]
  all_goals simp [State.nextEvent, *]

end Sys2Proof.Machine
end

section
/-! SUPPORT. The three host commands run in any phase (10_state.md R26): in their own phases and in `RSP` the
operands are unused and `exec` is the step of the phase, in the phases of another command it changes
nothing. -/

namespace Sys2Proof.Machine

variable {s t : State}

/-! ### In a phase of their own -/

theorem exec_init_own (chsel : BitVec 8) (clkper : Word) (h : s.phase.ofInit ∨ s.phase = .rsp) :
    exec (.init chsel clkper) s = step s := by
  rcases hp : s.phase <;> simp [hp, Phase.ofInit] at h <;>
    simp [step_iClk, step_iCwgr, step_rsp, exec, execInit, hp]

theorem exec_masterWrite_own (handle iasz : BitVec 2) (sadr : BitVec 10) (len : BitVec 16)
    (iaddr : BitVec 24) (h : s.phase.ofWrite ∨ s.phase = .rsp) :
    exec (.masterWrite handle iasz sadr len iaddr) s = step s := by
  by_cases hr : s.phase = .rsp
  · rw [step_rsp hr]; simp [exec, execMasterWrite, hr]
  · have hw : s.phase.ofWrite := h.resolve_right hr
    have hb : s.phase ≠ .idle := fun hi => by simp [hi, Phase.ofWrite] at hw
    rw [step_busy hb]
    rcases hp : s.phase <;> simp [hp, Phase.ofWrite] at hw <;>
      simp [exec, execMasterWrite, State.running, hp]

theorem exec_masterRead_own (handle iasz : BitVec 2) (sadr : BitVec 10) (len : BitVec 16)
    (iaddr : BitVec 24) (h : s.phase.ofRead ∨ s.phase = .rsp) :
    exec (.masterRead handle iasz sadr len iaddr) s = step s := by
  by_cases hr : s.phase = .rsp
  · rw [step_rsp hr]; simp [exec, execMasterRead, hr]
  · have hw : s.phase.ofRead := h.resolve_right hr
    have hb : s.phase ≠ .idle := fun hi => by simp [hi, Phase.ofRead] at hw
    rw [step_busy hb]
    rcases hp : s.phase <;> simp [hp, Phase.ofRead] at hw <;>
      simp [exec, execMasterRead, State.running, hp]

/-! ### In a phase of another command (log entry 18) -/

theorem exec_init_held (chsel : BitVec 8) (clkper : Word) (h : s.phase.ofTransaction) :
    exec (.init chsel clkper) s = .next s := by
  rcases hp : s.phase <;> simp [hp, Phase.ofTransaction, Phase.ofWrite, Phase.ofRead] at h <;>
    simp [exec, execInit, hp]

theorem exec_masterWrite_held (handle iasz : BitVec 2) (sadr : BitVec 10) (len : BitVec 16)
    (iaddr : BitVec 24) (h : s.phase.ofInit ∨ s.phase.ofRead) :
    exec (.masterWrite handle iasz sadr len iaddr) s = .next s := by
  rcases hp : s.phase <;> simp [hp, Phase.ofInit, Phase.ofRead] at h <;>
    simp [exec, execMasterWrite, hp]

theorem exec_masterRead_held (handle iasz : BitVec 2) (sadr : BitVec 10) (len : BitVec 16)
    (iaddr : BitVec 24) (h : s.phase.ofInit ∨ s.phase.ofWrite) :
    exec (.masterRead handle iasz sadr len iaddr) s = .next s := by
  rcases hp : s.phase <;> simp [hp, Phase.ofInit, Phase.ofWrite] at h <;>
    simp [exec, execMasterRead, hp]

/-! ### What each can lead to -/

/-- The phases by the command they belong to (R23). -/
theorem phase_owner (p : Phase) :
    p = .idle ∨ p.ofInit ∨ p.ofWrite ∨ p.ofRead ∨ p = .rsp := by
  cases p <;> decide

theorem exec_init_next {chsel : BitVec 8} {clkper : Word} (h : exec (.init chsel clkper) s = .next t) :
    (s.phase = .idle ∧ (t = (s.latchInit chsel clkper).goto .iClk ∨
        t = { s with op := 1, result := 0 }.goto .rsp)) ∨
      (s.phase ≠ .idle ∧ (s.phase.ofInit ∨ s.phase = .rsp) ∧ step s = .next t) ∨ t = s := by
  rcases phase_owner s.phase with hp | hp | hp | hp | hp
  · simp only [exec, execInit, hp] at h
    split at h <;> cases h
    · exact .inl ⟨hp, .inl rfl⟩
    · exact .inl ⟨hp, .inr rfl⟩
  · rw [exec_init_own _ _ (.inl hp)] at h
    exact .inr (.inl ⟨fun hi => by simp [hi, Phase.ofInit] at hp, .inl hp, h⟩)
  · rw [exec_init_held _ _ (by simp [Phase.ofTransaction, hp])] at h
    cases h; exact .inr (.inr rfl)
  · rw [exec_init_held _ _ (by simp [Phase.ofTransaction, hp])] at h
    cases h; exact .inr (.inr rfl)
  · rw [exec_init_own _ _ (.inr hp)] at h
    exact .inr (.inl ⟨by simp [hp], .inr hp, h⟩)

theorem exec_masterWrite_next {handle iasz : BitVec 2} {sadr : BitVec 10} {len : BitVec 16}
    {iaddr : BitVec 24} (h : exec (.masterWrite handle iasz sadr len iaddr) s = .next t) :
    (s.phase = .idle ∧ s.admission handle len = none ∧
        t = (s.latchTransaction 2 handle iasz sadr len iaddr).goto .wMmr) ∨
      ((s.phase.ofWrite ∨ s.phase = .rsp) ∧ Row s t) ∨ t = s := by
  rcases phase_owner s.phase with hp | hp | hp | hp | hp
  · simp only [exec, execMasterWrite, hp] at h
    split at h <;> cases h
    exact .inl ⟨hp, ‹_›, rfl⟩
  · rw [exec_masterWrite_held _ _ _ _ _ (.inl hp)] at h
    cases h; exact .inr (.inr rfl)
  · rw [exec_masterWrite_own _ _ _ _ _ (.inl hp)] at h
    exact .inr (.inl ⟨.inl hp, step_row (fun hi => by simp [hi, Phase.ofWrite] at hp) h⟩)
  · rw [exec_masterWrite_held _ _ _ _ _ (.inr hp)] at h
    cases h; exact .inr (.inr rfl)
  · rw [exec_masterWrite_own _ _ _ _ _ (.inr hp)] at h
    exact .inr (.inl ⟨.inr hp, step_row (by simp [hp]) h⟩)

theorem exec_masterRead_next {handle iasz : BitVec 2} {sadr : BitVec 10} {len : BitVec 16}
    {iaddr : BitVec 24} (h : exec (.masterRead handle iasz sadr len iaddr) s = .next t) :
    (s.phase = .idle ∧ s.admission handle len = none ∧
        t = (s.latchTransaction 3 handle iasz sadr len iaddr).goto .rMmr) ∨
      ((s.phase.ofRead ∨ s.phase = .rsp) ∧ Row s t) ∨ t = s := by
  rcases phase_owner s.phase with hp | hp | hp | hp | hp
  · simp only [exec, execMasterRead, hp] at h
    split at h <;> cases h
    exact .inl ⟨hp, ‹_›, rfl⟩
  · rw [exec_masterRead_held _ _ _ _ _ (.inl hp)] at h
    cases h; exact .inr (.inr rfl)
  · rw [exec_masterRead_held _ _ _ _ _ (.inr hp)] at h
    cases h; exact .inr (.inr rfl)
  · rw [exec_masterRead_own _ _ _ _ _ (.inl hp)] at h
    exact .inr (.inl ⟨.inl hp, step_row (fun hi => by simp [hi, Phase.ofRead] at hp) h⟩)
  · rw [exec_masterRead_own _ _ _ _ _ (.inr hp)] at h
    exact .inr (.inl ⟨.inr hp, step_row (by simp [hp]) h⟩)

end Sys2Proof.Machine
end

section
/-! SUPPORT. Acceptance (10_state.md R25 rows `IDLE`): the operation code of what the decoder answers, and
the buffer it lends. -/

namespace Sys2Proof.Machine

variable {s : State}

theorem opcode_of_init {w : CmdWord} {chsel : BitVec 8} {clkper : Word}
    (h : decodeCommand w = .ok (.init chsel clkper)) : field w 0 2 = 1 := by
  rcases decodeCommand_ok h with ⟨ho, -, -⟩ | ⟨-, -, hi⟩ | ⟨-, -, hi⟩
  · exact ho
  · cases hi
  · cases hi

theorem opcode_of_masterWrite {w : CmdWord} {handle iasz : BitVec 2} {sadr : BitVec 10}
    {len : BitVec 16} {iaddr : BitVec 24}
    (h : decodeCommand w = .ok (.masterWrite handle iasz sadr len iaddr)) : field w 0 2 = 2 := by
  rcases decodeCommand_ok h with ⟨-, -, hi⟩ | ⟨ho, -, -⟩ | ⟨-, -, hi⟩
  · cases hi
  · exact ho
  · cases hi

theorem opcode_of_masterRead {w : CmdWord} {handle iasz : BitVec 2} {sadr : BitVec 10}
    {len : BitVec 16} {iaddr : BitVec 24}
    (h : decodeCommand w = .ok (.masterRead handle iasz sadr len iaddr)) : field w 0 2 = 3 := by
  rcases decodeCommand_ok h with ⟨-, -, hi⟩ | ⟨-, -, hi⟩ | ⟨ho, -, -⟩
  · cases hi
  · cases hi
  · exact ho

/-- The bit `accept` looks at is the high bit of the operation code (R80). -/
theorem field_one_one (w : CmdWord) : field w 1 1 = field (field w 0 2) 1 1 := by
  apply BitVec.eq_of_getLsbD_eq
  intro k hk
  simp [field]

/-- A decoded command lends its buffer unless it is an `INIT` (R39, log entry 21). -/
theorem accept_buffer {cmd : PortCommand} {i : Instr} (hd : decodeCommand cmd.word = .ok i)
    (rest : List PortCommand) :
    (s.accept cmd rest).buffer = if field cmd.word 0 2 = 1 then s.buffer else cmd.lent := by
  have hb : (s.accept cmd rest).buffer =
      if field (field cmd.word 0 2) 1 1 = 1 then cmd.lent else s.buffer := by
    rw [← field_one_one]; rfl
  rcases decodeCommand_ok hd with ⟨ho, -, -⟩ | ⟨ho, -, -⟩ | ⟨ho, -, -⟩ <;> rw [hb, ho] <;> rfl

end Sys2Proof.Machine
end

section
/-! PROOFS. Stepping, acceptance and reset (10_state.md R23, R25, R26, R42, R66). -/

namespace Sys2Proof.Machine

/-- Settles O8, by the equations of `step` for an idle and for a busy block. -/
theorem stepRunsInstruction : Obligations.StepRunsInstruction :=
  ⟨fun _ _ _ _ h hp hd => step_decoded h hp hd, fun _ h => step_busy h, fun _ h hp => step_unasked h hp⟩

theorem admission_of_legal {s : State} {handle : BitVec 2} {len : BitVec 16}
    (hh : handle = 1 ∨ handle = 2) (hl : len ≠ 0)
    (hs : (s.slot (channelOfHandle handle)).initDone = true) : s.admission handle len = none :=
  admission_none.2 ⟨hl, by rcases hh with rfl | rfl <;> decide, by rcases hh with rfl | rfl <;> decide, hs⟩

/-- Settles O29: a legal handle of an initialised slot and a length pass admission. -/
theorem writeAccepted : Obligations.WriteAccepted := by
  intro handle iasz sadr len iaddr s hp hh hl hs
  simp only [exec, execMasterWrite, hp, admission_of_legal hh hl hs]
  rfl

/-- Settles O38: a legal handle of an initialised slot and a length pass admission. -/
theorem readAccepted : Obligations.ReadAccepted := by
  intro handle iasz sadr len iaddr s hp hh hl hs
  simp only [exec, execMasterRead, hp, admission_of_legal hh hl hs]
  rfl

/-- Settles O48, field by field of the reset state. -/
theorem resetValues : Obligations.ResetValues := by
  have hslot : ∀ c, (State.reset.slot c).initDone = false := by decide
  exact ⟨rfl, rfl, hslot, by decide, rfl, rfl, hslot, rfl⟩

/-- Settles O49, by evaluating the four clauses of the invariant at reset. -/
theorem resetMeetsInvariant : Obligations.ResetMeetsInvariant :=
  ⟨by decide, by decide, by decide, by decide⟩

/-- Settles O11, in the four cases of an acceptance that answers a next state. -/
theorem acceptanceFrame : Obligations.AcceptanceFrame := by
  intro s t cmd rest h hp hs
  rcases accept_next h hp hs with ⟨chsel, clkper, hd, -, rfl⟩ | ⟨chsel, clkper, hd, -, rfl⟩ |
    ⟨handle, iasz, sadr, len, iaddr, hd, -, rfl⟩ | ⟨handle, iasz, sadr, len, iaddr, hd, -, rfl⟩
  · have ho := opcode_of_init hd
    exact ⟨by simp, rfl, rfl, accept_buffer hd rest, fun c => ⟨rfl, rfl, rfl⟩, rfl, rfl, rfl,
      (if_pos ho).symm, rfl, rfl⟩
  · have ho := opcode_of_init hd
    exact ⟨by simp, rfl, rfl, accept_buffer hd rest, fun c => ⟨rfl, rfl, rfl⟩, rfl, rfl, rfl,
      (if_pos ho).symm, rfl, rfl⟩
  · have ho : field cmd.word 0 2 ≠ 1 := by simp [opcode_of_masterWrite hd]
    exact ⟨by simp, rfl, rfl, accept_buffer hd rest, fun c => ⟨rfl, rfl, rfl⟩, rfl, rfl, rfl,
      (if_neg ho).symm, rfl, rfl⟩
  · have ho : field cmd.word 0 2 ≠ 1 := by simp [opcode_of_masterRead hd]
    exact ⟨by simp, rfl, rfl, accept_buffer hd rest, fun c => ⟨rfl, rfl, rfl⟩, rfl, rfl, rfl,
      (if_neg ho).symm, rfl, rfl⟩

/-- Settles O12: a busy step is a row of R25 and no row touches the port; the arms of the host commands hold
a command in another's phase. -/
theorem busyPortHeld : Obligations.BusyPortHeld :=
  ⟨fun _ _ h hs => (row_frame (step_row h hs)).port,
   fun _ h chsel clkper => exec_init_held chsel clkper h,
   fun _ h hd z a l ia =>
    ⟨exec_masterWrite_held hd z a l ia (.inl h), exec_masterRead_held hd z a l ia (.inl h)⟩,
   fun _ h hd z a l ia => exec_masterRead_held hd z a l ia (.inr h),
   fun _ h hd z a l ia => exec_masterWrite_held hd z a l ia (.inr h)⟩

/-- Settles O13: an acceptance performs its `Cmd` (O11), a busy step the event of its row. -/
theorem oneEventPerPhase : Obligations.OneEventPerPhase := by
  intro s t hs
  by_cases h : s.phase = .idle
  · rcases hp : s.port with _ | ⟨cmd, rest⟩
    · rw [step_unasked h hp] at hs
      cases hs
      exact .inl ⟨by simp [State.nextEvent, h, hp], rfl⟩
    · obtain ⟨-, -, htrace, -⟩ := acceptanceFrame s t cmd rest h hp hs
      exact .inr ⟨.cmd cmd.word, by simp [State.nextEvent, h, hp], htrace⟩
  · exact .inr (row_event (step_row h hs))

/-- Settles O56: acceptance touches no slot (O11), of the rows below `IDLE` only the CWGR row does, and that one
sets `init_done`. -/
theorem initDoneNeverCleared : Obligations.InitDoneNeverCleared := by
  intro s t c hs
  have unchanged (h : t.slot c = s.slot c) :
      ((s.slot c).initDone = true → (t.slot c).initDone = true) ∧
        (t.slot c ≠ s.slot c → s.phase = .iCwgr ∧ c = s.c) :=
    ⟨fun hi => h ▸ hi, fun hn => absurd h hn⟩
  by_cases h : s.phase = .idle
  · rcases hp : s.port with _ | ⟨cmd, rest⟩
    · rw [step_unasked h hp] at hs
      cases hs
      exact unchanged rfl
    · obtain ⟨-, -, -, -, hbank, -⟩ := acceptanceFrame s t cmd rest h hp hs
      exact unchanged (hbank c).1
  · by_cases hk : s.phase = .iClk
    · exact unchanged (iClk_registry hk hs c).1
    by_cases hw : s.phase = .iCwgr
    · have hslot := (iCwgr_registry hw hs c).1
      by_cases hc : c = s.c
      · rw [if_pos hc] at hslot
        exact ⟨fun _ => by rw [hslot], fun _ => ⟨hw, hc⟩⟩
      · rw [if_neg hc] at hslot
        exact unchanged hslot
    · exact unchanged (row_registry (step_row h hs) hk hw c).1

end Sys2Proof.Machine
end

section
/-! PROOFS. What one event of each host command leaves unchanged (10_state.md R22, R36, R39, R44). -/

namespace Sys2Proof.Machine

/-- Settles O17: acceptance only latches, and the rows of an `INIT` write the gate, then CWGR and the slot. -/
theorem initFrame : Obligations.InitFrame := by
  intro chsel clkper s t h
  rcases exec_init_next h with ⟨hp, rfl | rfl⟩ | ⟨hb, hown, hs⟩ | rfl
  · simp [hp, State.latchInit, State.slot, State.blk, State.gate]
  · simp [hp, State.slot, State.blk, State.gate]
  · have hrow := step_row hb hs
    have hf := row_frame hrow
    have hne (q : Phase) (hq : ¬(q.ofInit ∨ q = .rsp)) : s.phase ≠ q := fun he => hq (he ▸ hown)
    have hreg (c : Channel) : ((s.phase ≠ .iCwgr ∨ c ≠ s.c) → (t.blk c).cwgr = (s.blk c).cwgr ∧
        t.slot c = s.slot c) ∧ ((s.phase ≠ .iClk ∨ c ≠ s.c) → t.gate c = s.gate c) := by
      by_cases hk : s.phase = .iClk
      · have := iClk_registry hk hs c; simp_all
      by_cases hw : s.phase = .iCwgr
      · have := iCwgr_registry hw hs c; simp_all
      · have := row_registry hrow hk hw c; simp_all
    have hWPoll := hne .wPoll (by decide)
    have hRPoll := hne .rPoll (by decide)
    have hRStart := hne .rStart (by decide)
    have hRBuf := hne .rBuf (by decide)
    have hWBuf := hne .wBuf (by decide)
    have hRRhr := hne .rRhr (by decide)
    exact ⟨hf.sadr, hf.iasz, hf.iaddr, hf.len, hf.rd,
      hf.i (hne .wStart (by decide)) hWPoll hRStart hRBuf,
      hf.n (hne .wThr (by decide)) (hne .wLstop (by decide)) hWPoll hRStart hRPoll hRBuf,
      hf.b hWBuf hRRhr, hf.port, fun k => by rw [hf.buffer hRBuf], hf.srAnswers hWPoll hRPoll,
      hf.rhrAnswers hRRhr, hf.draws hWPoll hRPoll hWBuf hRRhr, fun _ => ⟨hf.op, hf.c, hf.per⟩,
      fun _ hw => hf.result hw hWPoll hRPoll hRBuf (hne .rLstop (by decide)),
      fun c => ⟨row_mmr hrow (hne .wMmr (by decide)) (hne .rMmr (by decide)) c,
        row_iadr hrow (hne .wIadr (by decide)) (hne .rIadr (by decide)) c,
        row_thr hrow (hne .wThr (by decide)) c⟩,
      fun c => (hreg c).1, fun c => (hreg c).2⟩
  · simp

/-- Settles O34: acceptance only latches, a held command changes nothing, and the rows of a write keep what
`RowFrame` and the register lemmas say. -/
theorem writeFrame : Obligations.WriteFrame := by
  intro handle iasz sadr len iaddr s t h
  rcases exec_masterWrite_next h with ⟨hp, -, rfl⟩ | ⟨hown, hrow⟩ | rfl
  · simp [hp, State.latchTransaction, State.slot, State.blk, State.gate]
  · have hf := row_frame hrow
    have hne (q : Phase) (hq : ¬(q.ofWrite ∨ q = .rsp)) : s.phase ≠ q := fun he => hq (he ▸ hown)
    have hCwgr := hne .iCwgr (by decide)
    have hRStart := hne .rStart (by decide)
    have hRPoll := hne .rPoll (by decide)
    have hRRhr := hne .rRhr (by decide)
    have hRBuf := hne .rBuf (by decide)
    exact ⟨hf.per, hf.port, hf.rhrAnswers hRRhr, fun k => by rw [hf.buffer hRBuf],
      row_registry hrow (hne .iClk (by decide)) hCwgr, fun _ hc => row_blk_ne hrow hc,
      fun h1 => row_mmr hrow h1 (hne .rMmr (by decide)) s.c,
      fun h1 => row_iadr hrow h1 (hne .rIadr (by decide)) s.c,
      fun h1 => row_thr hrow h1 s.c,
      fun _ => ⟨hf.op, hf.c, hf.sadr, hf.iasz, hf.iaddr, hf.len, hf.rd⟩,
      fun _ h1 h2 => hf.i h1 h2 hRStart hRBuf,
      fun h1 h2 h3 => hf.n h1 h2 h3 hRStart hRPoll hRBuf,
      fun h1 => hf.b h1 hRRhr,
      fun h1 => ⟨hf.result hCwgr h1 hRPoll hRBuf (hne .rLstop (by decide)), hf.srAnswers h1 hRPoll⟩,
      fun h1 h2 => hf.draws h1 hRPoll h2 hRRhr⟩
  · simp

/-- Settles O42: acceptance only latches, a held command changes nothing, and the rows of a read keep what
`RowFrame` and the register lemmas say. -/
theorem readFrame : Obligations.ReadFrame := by
  intro handle iasz sadr len iaddr s t h
  rcases exec_masterRead_next h with ⟨hp, -, rfl⟩ | ⟨hown, hrow⟩ | rfl
  · simp [hp, State.latchTransaction, State.slot, State.blk, State.gate]
  · have hf := row_frame hrow
    have hne (q : Phase) (hq : ¬(q.ofRead ∨ q = .rsp)) : s.phase ≠ q := fun he => hq (he ▸ hown)
    have hCwgr := hne .iCwgr (by decide)
    have hWPoll := hne .wPoll (by decide)
    have hWBuf := hne .wBuf (by decide)
    have hWThr := hne .wThr (by decide)
    have hreg := row_registry hrow (hne .iClk (by decide)) hCwgr
    exact ⟨hf.per, hf.port, fun h1 k => by rw [hf.buffer h1], fun _ hk => row_buffer_read hrow hk,
      fun c => ⟨(hreg c).1, (hreg c).2.1, (hreg c).2.2, row_thr hrow hWThr c⟩, fun _ hc => row_blk_ne hrow hc,
      fun h1 => row_mmr hrow (hne .wMmr (by decide)) h1 s.c,
      fun h1 => row_iadr hrow (hne .wIadr (by decide)) h1 s.c,
      fun _ => ⟨hf.op, hf.c, hf.sadr, hf.iasz, hf.iaddr, hf.len, hf.rd⟩,
      fun _ => hf.i (hne .wStart (by decide)) hWPoll,
      fun h1 h2 h3 => hf.n hWThr (hne .wLstop (by decide)) hWPoll h1 h3 h2,
      fun h1 => ⟨hf.b hWBuf h1, hf.rhrAnswers h1⟩, hf.srAnswers hWPoll,
      fun h1 h2 => hf.draws hWPoll h1 hWBuf h2, hf.result hCwgr hWPoll⟩
  · simp

end Sys2Proof.Machine
end

section
/-! SUPPORT. What a position of R43 says of the counters, and what the rows below `IDLE` keep of it. -/

namespace Sys2Proof.Machine

variable {s t : State}

/-! ### The counters of a position -/

/-- In every phase of a transaction `i` is below `len` (R43). -/
theorem i_lt_of_positionOk (hok : s.positionOk = true) (hp : s.phase.ofTransaction = true) :
    s.i.toNat < s.len.toNat := by
  rcases h : s.phase <;>
    simp_all [State.positionOk, Phase.ofTransaction, Phase.ofWrite, Phase.ofRead, State.inBuffer,
      State.lastByte]
  all_goals omega

/-- In every phase of a wait fewer than `POLL_MAX` polls were made (R43). -/
theorem n_lt_of_positionOk (hok : s.positionOk = true) (hp : s.phase.inWait = true) :
    s.n.toNat < Config.pollMax := by
  rcases h : s.phase <;> simp_all [State.positionOk, Phase.inWait]

/-! ### Latches and counters agree with the phase -/

theorem row_transacting (h : Row s t) (hk : s.phase ≠ .iClk) (hw : s.phase ≠ .iCwgr) (op : BitVec 2)
    (rd : BitVec 1) : t.transacting op rd = s.transacting op rd := by
  have hf := row_frame h
  simp only [State.transacting, hf.op, hf.rd, hf.c, hf.len, (row_registry h hk hw s.c).1]

theorem handleWord_cases (c : Channel) : handleWord c = 1 ∨ handleWord c = 2 := by
  rcases channel_cases c with rfl | rfl <;> decide

/-- The rows of an `INIT` lead to a position of the table (R43). -/
theorem init_positionOk (hok : s.positionOk = true) (hp : s.phase.ofInit = true)
    (hs : step s = .next t) : t.positionOk = true := by
  rcases h : s.phase <;> simp [h, Phase.ofInit] at hp
  case iClk =>
    rw [step_iClk h] at hs
    cases hs
    simpa [State.positionOk, h] using hok
  case iCwgr =>
    rw [step_iCwgr h] at hs
    cases hs
    have hop : s.op = 1 ∧ s.gate s.c = .enabled := by simpa [State.positionOk, h] using hok
    rcases handleWord_cases s.c with hr | hr <;> simp [State.positionOk, hop.1, hr]

/-- Every other row leads to a position of the table: the latches stand, `i` advances only where another
byte follows, and a poll that decides nothing leaves polls to make (R43). -/
theorem row_positionOk (hok : s.positionOk = true) (h : Row s t) (hk : s.phase ≠ .iClk)
    (hw : s.phase ≠ .iCwgr) : t.positionOk = true := by
  have htr := row_transacting h hk hw
  have hi := i_lt_of_positionOk hok
  cases h
  case pollAgain ready h hn hv =>
    have hlast := (pollVerdict_none hv).2.2
    have hnext := n_succ hn
    cases ready <;>
      simp_all [State.positionOk, State.inBuffer, pollPhase, delayPhase, Config.pollMax] <;> omega
  case pollNoAck ready h _ _ | pollTimeout ready h _ _ =>
    cases ready <;>
      simp_all [State.positionOk, State.inBuffer, pollPhase, forcedStopPhase, faultCode]
  case delay ready h =>
    cases ready <;> simp_all [State.positionOk, State.inBuffer, pollPhase, delayPhase]
  case wPollMore h _ _ hm | rBufMore h hm =>
    have hnext := i_succ (hi (by rw [h]; rfl))
    simp_all [State.positionOk, State.inBuffer, State.moreBytes, pollPhase, Config.pollMax]
    omega
  case wStart h | rStart h =>
    have hlen := hi (by rw [h]; rfl)
    simp_all [State.positionOk, State.inBuffer, pollPhase, Config.pollMax]
    omega
  case wLstop h =>
    have hlen := hi (by rw [h]; rfl)
    simp_all [State.positionOk, State.inBuffer, pollPhase, Config.pollMax]
  case rBufOnly h _ h1 => simp_all [State.positionOk, countWord]
  case rBufLast h hl h1 =>
    simp_all [State.positionOk, State.inBuffer, State.lastByte]
    bv_omega
  case iClk h => exact absurd h hk
  case iCwgr h => exact absurd h hw
  all_goals simp_all [State.positionOk, State.inBuffer, State.lastByte, pollPhase, Config.pollMax]

end Sys2Proof.Machine
end

section
/-! PROOFS. The invariant of R43 is kept by every step. -/

namespace Sys2Proof.Machine

variable {s t : State}

/-! ### An initialised channel has its clock on and its divisor in CWGR -/

theorem channelOk_iff (c : Channel) : s.channelOk c = true ↔
    ((s.slot c).initDone = true → s.gate c = .enabled ∧ (s.blk c).cwgr = (s.slot c).cwgrCfg) := by
  simp only [State.channelOk, Bool.or_eq_true, Bool.not_eq_true', Bool.and_eq_true, decide_eq_true_eq]
  cases (s.slot c).initDone <;> simp

theorem channelOk_congr {c : Channel} (hslot : t.slot c = s.slot c) (hgate : t.gate c = s.gate c)
    (hcwgr : (t.blk c).cwgr = (s.blk c).cwgr) : t.channelOk c = s.channelOk c := by
  simp only [State.channelOk, hslot, hgate, hcwgr]

/-- A busy step keeps it: `ClockEnable` turns a gate on, and the CWGR row, which writes slot and register
alike, comes after it (R111, R197). -/
theorem busy_channelOk {c : Channel} (hpos : s.positionOk = true) (hok : s.channelOk c = true)
    (hb : s.phase ≠ .idle) (hs : step s = .next t) : t.channelOk c = true := by
  by_cases hk : s.phase = .iClk
  · obtain ⟨hslot, hgate, hcwgr⟩ := iClk_registry hk hs c
    rw [channelOk_iff] at hok ⊢
    rw [hslot, hgate, hcwgr]
    exact fun hi => ⟨by split <;> simp [hok hi], (hok hi).2⟩
  by_cases hw : s.phase = .iCwgr
  · obtain ⟨hslot, hgate, hcwgr⟩ := iCwgr_registry hw hs c
    have hon : s.gate s.c = .enabled := by simp_all [State.positionOk]
    rw [channelOk_iff] at hok ⊢
    rw [hslot, hgate, hcwgr]
    by_cases hc : c = s.c
    · simp [hc, hon]
    · simpa [hc] using hok
  · obtain ⟨hslot, hgate, hcwgr⟩ := row_registry (step_row hb hs) hk hw c
    rw [channelOk_congr hslot hgate hcwgr, hok]

/-! ### The buffers are canonical -/

theorem buffersOk_iff : s.buffersOk = true ↔
    s.buffer.wf = true ∧ ∀ cmd ∈ s.port, cmd.lent.wf = true := by
  simp [State.buffersOk]

theorem row_buffersOk (hok : s.buffersOk = true) (h : Row s t) : t.buffersOk = true := by
  obtain ⟨hbuf, hport⟩ := buffersOk_iff.1 hok
  refine buffersOk_iff.2 ⟨?_, by rwa [(row_frame h).port]⟩
  rcases row_buffer h with hb | hb <;> rw [hb]
  · exact hbuf
  · exact Memory.wf_write _ _ hbuf

/-! ### The two kinds of step -/

/-- An admitted transaction stands where the table wants it: its slot is initialised and `i` is 0 (log entry
11). -/
theorem latchTransaction_position (s : State) (op : BitVec 2) {handle : BitVec 2} (iasz : BitVec 2)
    (sadr : BitVec 10) {len : BitVec 16} (iaddr : BitVec 24) (ha : s.admission handle len = none) :
    ((s.latchTransaction op handle iasz sadr len iaddr).transacting op (op.setWidth 1) &&
      (s.latchTransaction op handle iasz sadr len iaddr).inBuffer) = true := by
  obtain ⟨hlen, -, -, hslot⟩ := admission_none.1 ha
  have hpos : 0 < len.toNat := by bv_omega
  have hinit : ((s.latchTransaction op handle iasz sadr len iaddr).slot
    (channelOfHandle handle)).initDone = true := hslot
  simp_all [State.transacting, State.inBuffer, State.latchTransaction]

theorem accept_inv {cmd : PortCommand} {rest : List PortCommand} (hinv : s.Inv) (h : s.phase = .idle)
    (hp : s.port = cmd :: rest) (hs : step s = .next t) : t.Inv := by
  obtain ⟨-, hok0, hok1, hbuf⟩ := hinv
  obtain ⟨-, hport, -, hbuffer, hbank, -⟩ := acceptanceFrame s t cmd rest h hp hs
  have hchannel (c : Channel) : t.channelOk c = s.channelOk c := by
    obtain ⟨hslot, hblk, hgate⟩ := hbank c
    exact channelOk_congr hslot hgate (by rw [hblk])
  have hbuffers : t.buffersOk = true := by
    rw [buffersOk_iff, hp] at hbuf
    rw [buffersOk_iff, hport, hbuffer]
    exact ⟨by split <;> simp [hbuf], fun x hx => hbuf.2 x (List.mem_cons_of_mem _ hx)⟩
  refine ⟨?_, (hchannel 0).trans hok0, (hchannel 1).trans hok1, hbuffers⟩
  rcases accept_next h hp hs with ⟨chsel, clkper, -, -, rfl⟩ | ⟨chsel, clkper, -, -, rfl⟩ |
    ⟨handle, iasz, sadr, len, iaddr, -, ha, rfl⟩ | ⟨handle, iasz, sadr, len, iaddr, -, ha, rfl⟩
  · rfl
  · simp [State.positionOk]
  · exact latchTransaction_position (s.accept cmd rest) 2 iasz sadr iaddr ha
  · exact latchTransaction_position (s.accept cmd rest) 3 iasz sadr iaddr ha

theorem busy_inv (hinv : s.Inv) (hb : s.phase ≠ .idle) (hs : step s = .next t) : t.Inv := by
  obtain ⟨hpos, hok0, hok1, hbuf⟩ := hinv
  have hrow := step_row hb hs
  refine ⟨?_, busy_channelOk hpos hok0 hb hs, busy_channelOk hpos hok1 hb hs,
    row_buffersOk hbuf hrow⟩
  by_cases hi : s.phase.ofInit = true
  · exact init_positionOk hpos hi hs
  · exact row_positionOk hpos hrow (fun hk => hi (by rw [hk]; rfl)) (fun hw => hi (by rw [hw]; rfl))

/-- Settles O50: an acceptance latches an admitted command (`accept_inv`), a busy step is a row of R25
(`busy_inv`), and with nothing presented nothing changes. -/
theorem stepKeepsInvariant : Obligations.StepKeepsInvariant := by
  intro s t hinv hs
  by_cases h : s.phase = .idle
  · rcases hp : s.port with _ | ⟨cmd, rest⟩
    · rw [step_unasked h hp] at hs
      cases hs
      exact hinv
    · exact accept_inv hinv h hp hs
  · exact busy_inv hinv h hs

end Sys2Proof.Machine
end

section
/-! PROOFS. Under the invariant the block is never stuck, and it is idle again within the bound of R25. -/

namespace Sys2Proof.Machine

variable {s t : State}

/-! ### A step answers -/

theorem lastByte_or_moreBytes (hi : s.i.toNat < s.len.toNat) :
    s.lastByte = true ∨ s.moreBytes = true := by
  rw [lastByte_iff, moreBytes_iff]
  omega

theorem pollRow_total (ready : ReadyBit) (hn : s.n.toNat < Config.pollMax)
    (hi : s.i.toNat < s.len.toNat) : ∃ t, s.pollRow ready = .next t := by
  rcases hv : pollVerdict ready s.srAnswer (s.n.toNat + 1) with _ | r
  · exact ⟨_, pollRow_none hn hv⟩
  · obtain ⟨t, ht⟩ := waitReturns_total (s := s.poll) ready r hi
    exact ⟨t, by rw [pollRow_some hn hv, ht]⟩

/-- A busy step of the invariant answers: the byte loop has `i` below `len`, a wait has polls left (R43). -/
theorem busy_total (hpos : s.positionOk = true) (hb : s.phase ≠ .idle) : ∃ t, step s = .next t := by
  have hi := i_lt_of_positionOk hpos
  have hn := n_lt_of_positionOk hpos
  rcases h : s.phase
  case idle => exact absurd h hb
  case wBuf => rw [step_wBuf h, if_pos (hi (by rw [h]; rfl))]; exact ⟨_, rfl⟩
  case wThr =>
    have hrow := lastByte_or_moreBytes (hi (by rw [h]; rfl))
    rw [step_wThr h]
    by_cases hl : s.lastByte = true
    · exact ⟨_, if_pos hl⟩
    · rw [if_neg hl, if_pos (hrow.resolve_left hl)]
      exact ⟨_, rfl⟩
  case rBuf =>
    have hrow := lastByte_or_moreBytes (hi (by rw [h]; rfl))
    rw [step_rBuf h]
    by_cases hm : s.moreBytes = true
    · exact ⟨_, if_pos hm⟩
    · rw [if_neg hm, if_pos (hrow.resolve_right hm)]
      split <;> exact ⟨_, rfl⟩
  case wPoll => rw [step_wPoll h]; exact pollRow_total _ (hn (by rw [h]; rfl)) (hi (by rw [h]; rfl))
  case rPoll => rw [step_rPoll h]; exact pollRow_total _ (hn (by rw [h]; rfl)) (hi (by rw [h]; rfl))
  all_goals simp [step_iClk, step_iCwgr, step_wMmr, step_wIadr, step_wMsen, step_wStart, step_wLstop,
    step_wDelay, step_wFstop, step_rMmr, step_rIadr, step_rStart, step_rDelay, step_rRhr, step_rLstop,
    step_rFstop, step_rsp, h]

/-- An acceptance answers a next state or is refused. -/
theorem accept_total {cmd : PortCommand} {rest : List PortCommand} (h : s.phase = .idle)
    (hp : s.port = cmd :: rest) : (∃ t, step s = .next t) ∨ ∃ why, step s = .refused why := by
  have ha : (s.accept cmd rest).phase = .idle := h
  rcases hd : decodeCommand cmd.word with e | i
  · exact .inr ⟨_, step_illegal h hp hd⟩
  · rw [step_decoded h hp hd]
    rcases decodeCommand_ok hd with ⟨-, -, rfl⟩ | ⟨-, -, rfl⟩ | ⟨-, -, rfl⟩
    · simp only [exec, execInit, ha]
      split <;> simp
    · simp only [exec, execMasterWrite, ha]
      split <;> simp
    · simp only [exec, execMasterRead, ha]
      split <;> simp

/-- Settles O51: a busy step answers (`busy_total`), an acceptance answers or is refused. -/
theorem neverStuck : Obligations.NeverStuck := by
  intro s hinv
  by_cases h : s.phase = .idle
  · rcases hp : s.port with _ | ⟨cmd, rest⟩
    · exact .inl ⟨s, step_unasked h hp⟩
    · exact (accept_total h hp).imp_right fun hr => ⟨h, by simp, hr⟩
  · exact .inl (busy_total hinv.1 h)

/-! ### How many steps are left -/

/-- Bytes of the transaction from `i` on. -/
def State.bytesLeft (s : State) : Nat := s.len.toNat - s.i.toNat

/-- An upper bound on the steps to `IDLE` (R25): 201 for each byte, of which 199 are its wait's, and the
set-up, the last STOP or the forced one, and the response. -/
def State.stepsLeft (s : State) : Nat :=
  match s.phase with
  | .idle => 0
  | .rsp => 1
  | .iCwgr | .wFstop | .rFstop | .rLstop => 2
  | .iClk => 3
  | .wMmr => 7 + 201 * s.len.toNat
  | .wIadr => 6 + 201 * s.len.toNat
  | .wMsen => 5 + 201 * s.len.toNat
  | .wStart => 4 + 201 * s.len.toNat
  | .wBuf => 3 + 201 * s.bytesLeft
  | .wThr => 2 + 201 * s.bytesLeft
  | .wLstop => 202
  | .wPoll => 201 - 2 * s.n.toNat + 201 * (s.bytesLeft - 1) + min 1 (s.bytesLeft - 1)
  | .wDelay => 202 - 2 * s.n.toNat + 201 * (s.bytesLeft - 1) + min 1 (s.bytesLeft - 1)
  | .rMmr => 5 + 201 * s.len.toNat
  | .rIadr => 4 + 201 * s.len.toNat
  | .rStart => 3 + 201 * s.len.toNat
  | .rPoll => 203 - 2 * s.n.toNat + 201 * (s.bytesLeft - 1)
  | .rDelay => 204 - 2 * s.n.toNat + 201 * (s.bytesLeft - 1)
  | .rRhr => 4 + 201 * (s.bytesLeft - 1)
  | .rBuf => 3 + 201 * (s.bytesLeft - 1)

theorem stepsLeft_le (hpos : s.positionOk = true) : s.stepsLeft ≤ 8 + s.len.toNat * 201 := by
  have hi := i_lt_of_positionOk hpos
  rcases h : s.phase <;> simp only [State.stepsLeft, State.bytesLeft, h] <;>
    simp [h, Phase.ofTransaction, Phase.ofWrite, Phase.ofRead] at hi <;> omega

/-- A busy step leaves fewer steps: within a byte each row is nearer to the wait's end, and what the wait's end
leads to, the next byte, the response or the forced STOP, is counted beyond its last poll. -/
theorem row_stepsLeft (hpos : s.positionOk = true) (h : Row s t) : t.stepsLeft < s.stepsLeft := by
  have hi := i_lt_of_positionOk hpos
  have hn := n_lt_of_positionOk hpos
  cases h
  case pollAgain ready h hn hv =>
    have hnext := n_succ hn
    cases ready <;>
      simp_all [State.stepsLeft, State.bytesLeft, pollPhase, delayPhase, Config.pollMax] <;> omega
  case pollNoAck ready h hn hv | pollTimeout ready h hn hv =>
    cases ready <;>
      simp_all [State.stepsLeft, State.bytesLeft, pollPhase, forcedStopPhase, Config.pollMax] <;> omega
  case delay ready h =>
    have hnext := hn (by rw [h]; cases ready <;> rfl)
    cases ready <;>
      simp_all [State.stepsLeft, State.bytesLeft, pollPhase, delayPhase, Config.pollMax] <;> omega
  case wPollMore h _ _ hm | rBufMore h hm =>
    have hnext := i_succ (hi (by rw [h]; rfl))
    simp_all [State.stepsLeft, State.bytesLeft, State.moreBytes, pollPhase, Config.pollMax]
    omega
  case wLstop h =>
    have hlast : s.i.toNat + 1 = s.len.toNat := by
      simp_all [State.positionOk, State.lastByte]
    simp [State.stepsLeft, State.bytesLeft, h, pollPhase]
    omega
  case rStart h =>
    have hlen := hi (by rw [h]; rfl)
    simp [State.stepsLeft, State.bytesLeft, h, pollPhase]
    omega
  case wThrLast h hl | wThrMore h hl | wPollLast h _ hn hl =>
    simp_all [State.stepsLeft, State.bytesLeft, State.lastByte, State.moreBytes, pollPhase,
      Config.pollMax]
    omega
  case rBufLast h _ _ =>
    simp [State.stepsLeft, State.bytesLeft, h]
    omega
  case rPollOk h _ _ =>
    simp_all [State.stepsLeft, State.bytesLeft, Config.pollMax]
    omega
  all_goals simp [State.stepsLeft, State.bytesLeft, *]

/-- A run of the invariant reaches `IDLE` within the steps left. -/
theorem idle_within (k : Nat) (hinv : s.Inv) (hk : s.stepsLeft ≤ k) :
    ∃ j, ∃ t : State, j ≤ k ∧ Host.Core.run core j s = .next t ∧ t.phase = .idle := by
  induction k generalizing s with
  | zero =>
    by_cases h : s.phase = .idle
    · exact ⟨0, s, le_rfl, run_zero s, h⟩
    · obtain ⟨u, hu⟩ := busy_total hinv.1 h
      exact absurd (row_stepsLeft hinv.1 (step_row h hu)) (by omega)
  | succ k ih =>
    by_cases h : s.phase = .idle
    · exact ⟨0, s, Nat.zero_le _, run_zero s, h⟩
    · obtain ⟨u, hu⟩ := busy_total hinv.1 h
      have hless := row_stepsLeft hinv.1 (step_row h hu)
      obtain ⟨j, t, hj, hrun, hidle⟩ := ih (busy_inv hinv h hu) (by omega)
      exact ⟨j + 1, t, by omega, by rw [run_next j hu, hrun], hidle⟩

/-- Settles O52: each busy step leaves fewer steps (`row_stepsLeft`), and at first no more than the bound. -/
theorem everyCommandEnds : Obligations.EveryCommandEnds := by
  intro s hinv
  obtain ⟨j, t, hj, hrun, hidle⟩ := idle_within s.stepsLeft hinv le_rfl
  exact ⟨j, t, hj.trans (stepsLeft_le hinv.1), hrun, hidle⟩

end Sys2Proof.Machine
end

section
/-! PROOFS. Every event a step performs is legal (10_state.md R36, 20_memory.md R57 to R59, 30_encoding.md R97,
44_register_commands.md R160). -/

namespace Sys2Proof.Machine

variable {s t : State}

/-! ### Reserved bits are written 0 -/

theorem and_eq_zero_of_bits {x mask : Word} (h : ∀ k < 32, (x.getLsbD k && mask.getLsbD k) = false) :
    x &&& mask = 0 := by
  apply BitVec.eq_of_getLsbD_eq
  intro k hk
  simpa using h k hk

theorem mmrWord_reserved (sadr : BitVec 10) (iasz : BitVec 2) (rd : BitVec 1) :
    mmrWord sadr iasz rd &&& 0xFC00ECFF = 0 := by
  apply and_eq_zero_of_bits
  intro k hk
  simp only [mmrWord]
  interval_cases k <;> simp

theorem iadrWord_reserved (iaddr : BitVec 24) : iadrWord iaddr &&& 0xFF000000 = 0 := by
  apply and_eq_zero_of_bits
  intro k hk
  simp only [iadrWord]
  interval_cases k <;> simp

theorem thrWord_reserved (b : Byte) : thrWord b &&& 0xFFFFFF00 = 0 := by
  apply and_eq_zero_of_bits
  intro k hk
  simp only [thrWord]
  interval_cases k <;> simp

theorem pid_cases (c : Channel) : Config.pid c = Config.pid0 ∨ Config.pid c = Config.pid1 := by
  unfold Config.pid
  split
  · exact .inl rfl
  · exact .inr rfl

/-- Where a step reads or writes the buffer, `i` is below `len`, which is at most 65535. -/
theorem i_lt_of_buffer_access (hp : s.phase = .wBuf ∨ s.phase = .rBuf) (hs : step s = .next t) :
    s.i.toNat < 65535 := by
  have hlen := s.len.isLt
  have hi : s.i.toNat < s.len.toNat := by
    rcases hp with h | h
    · rw [step_wBuf h] at hs
      split at hs
      · assumption
      · cases hs
    · by_contra hn
      rw [step_rBuf h, if_neg (by rw [moreBytes_iff]; omega), if_neg (by rw [lastByte_iff]; omega)] at hs
      cases hs
  omega

/-- The event a step performs is legal; the buffer is read and written only below `len`, which is at most
65535. -/
theorem nextEvent_legal {e : Event} (he : s.nextEvent = some e) (hs : step s = .next t) :
    e.legal = true := by
  rcases h : s.phase
  case idle =>
    obtain ⟨cmd, -, rfl⟩ : ∃ cmd, s.port.head? = some cmd ∧ Event.cmd cmd.word = e := by
      simpa [State.nextEvent, h] using he
    rfl
  all_goals
    simp only [State.nextEvent, h, Option.some.injEq] at he
    subst he
  case iClk => simpa [Event.legal] using pid_cases s.c
  case wMmr | rMmr => exact decide_eq_true (mmrWord_reserved _ _ _)
  case wIadr | rIadr => exact decide_eq_true (iadrWord_reserved _)
  case wThr => exact decide_eq_true (thrWord_reserved _)
  case wBuf => exact decide_eq_true (i_lt_of_buffer_access (.inl h) hs)
  case rBuf => exact decide_eq_true (i_lt_of_buffer_access (.inr h) hs)
  case rStart =>
    show crWordLegal _ = true
    split <;> rfl
  all_goals rfl

/-- Settles O53: a step adds one event to the trace (O13), and it is legal. -/
theorem traceStaysLegal : Obligations.TraceStaysLegal := by
  intro s t hlegal hs
  rcases oneEventPerPhase s t hs with ⟨-, rfl⟩ | ⟨e, he, htrace⟩
  · exact hlegal
  · simp only [State.traceLegal, htrace, List.all_append, List.all_cons, List.all_nil, Bool.and_true,
      Bool.and_eq_true]
    exact ⟨hlegal, nextEvent_legal he hs⟩

end Sys2Proof.Machine
end

section
/-! PROOFS. No step reads a latch or counter that is dead in its phase (10_state.md R22, R42): a step from the
live view of a state leads to the same live view as a step from the state. -/

namespace Sys2Proof.Machine

variable {s : State}

/-! ### What the live view keeps -/

@[simp] theorem liveView_phase (s : State) : s.liveView.phase = s.phase := rfl
@[simp] theorem liveView_srAnswer (s : State) : s.liveView.srAnswer = s.srAnswer := rfl

theorem liveView_i (h : s.phase.afterStart = true) : s.liveView.i = s.i := if_pos h

theorem liveView_n (h : s.phase.inWait = true) : s.liveView.n = s.n := if_pos h

theorem liveView_len (h : s.phase.ofTransaction = true) : s.liveView.len = s.len := if_pos h

theorem ofTransaction_of_afterStart {p : Phase} (h : p.afterStart = true) : p.ofTransaction = true := by
  revert h
  cases p <;> decide

theorem liveView_lastByte (h : s.phase.afterStart = true) : s.liveView.lastByte = s.lastByte := by
  simp only [State.lastByte, liveView_i h, liveView_len (ofTransaction_of_afterStart h)]

theorem liveView_moreBytes (h : s.phase.afterStart = true) : s.liveView.moreBytes = s.moreBytes := by
  simp only [State.moreBytes, liveView_i h, liveView_len (ofTransaction_of_afterStart h)]

/-- Admission looks at the slots, which the view keeps. -/
theorem admission_liveView_accept (cmd : PortCommand) (rest : List PortCommand) (handle : BitVec 2)
    (len : BitVec 16) :
    (s.liveView.accept cmd rest).admission handle len = (s.accept cmd rest).admission handle len := rfl

/-! ### The steps -/

/-- The return of a wait reads the byte counters, which the view keeps. -/
theorem waitReturns_liveView {ready : ReadyBit} (r : WaitResult) (h : s.phase = pollPhase ready) :
    andThen (s.liveView.poll.waitReturns ready r) State.liveView =
      andThen (s.poll.waitReturns ready r) State.liveView := by
  have ha : s.phase.afterStart = true := by rw [h]; cases ready <;> rfl
  have hl : s.liveView.poll.lastByte = s.poll.lastByte := liveView_lastByte ha
  have hm : s.liveView.poll.moreBytes = s.poll.moreBytes := liveView_moreBytes ha
  cases r
  case ok =>
    cases ready
    case txrdy =>
      simp only [State.waitReturns, hl, hm]
      split
      · simp +decide [andThen, pollPhase, State.liveView, State.srAnswer, h]
      · split
        · simp +decide [andThen, pollPhase, State.liveView, State.srAnswer, h]
        · rfl
    case rxrdy => simp +decide [State.waitReturns, andThen, pollPhase, State.liveView, State.srAnswer, h]
  all_goals
    cases ready <;>
      simp +decide [State.waitReturns, andThen, pollPhase, forcedStopPhase, State.liveView,
        State.srAnswer, h]

theorem pollRow_liveView {ready : ReadyBit} (h : s.phase = pollPhase ready) :
    andThen (s.liveView.pollRow ready) State.liveView = andThen (s.pollRow ready) State.liveView := by
  have ha : s.phase.afterStart = true := by rw [h]; cases ready <;> rfl
  have hn : s.phase.inWait = true := by rw [h]; cases ready <;> rfl
  simp only [State.pollRow, liveView_n hn, liveView_srAnswer]
  split
  · rfl
  · split
    case h_1 r hv => exact waitReturns_liveView r h
    case h_2 hv =>
      cases ready <;> simp +decide [andThen, pollPhase, delayPhase, State.liveView, State.srAnswer, h]

theorem step_liveView_busy (hb : s.phase ≠ .idle) :
    andThen (step s.liveView) State.liveView = andThen (step s) State.liveView := by
  rcases h : s.phase
  case idle => exact absurd h hb
  case wBuf =>
    have ha : s.phase.afterStart = true := by rw [h]; rfl
    rw [step_wBuf (s := s.liveView) h, step_wBuf h, liveView_i ha,
      liveView_len (ofTransaction_of_afterStart ha)]
    split
    · simp +decide [andThen, State.liveView, State.bufByte, h]
    · rfl
  case wThr =>
    have ha : s.phase.afterStart = true := by rw [h]; rfl
    rw [step_wThr (s := s.liveView) h, step_wThr h, liveView_lastByte ha, liveView_moreBytes ha]
    split
    · simp +decide [andThen, State.liveView, h]
    · split
      · simp +decide [andThen, pollPhase, State.liveView, h]
      · rfl
  case rBuf =>
    have ha : s.phase.afterStart = true := by rw [h]; rfl
    rw [step_rBuf (s := s.liveView) h, step_rBuf h, liveView_lastByte ha, liveView_moreBytes ha,
      liveView_len (ofTransaction_of_afterStart ha)]
    split
    · simp +decide [andThen, pollPhase, State.liveView, h]
    · split
      · split <;> simp +decide [andThen, State.liveView, h]
      · rfl
  case wPoll =>
    rw [step_wPoll (s := s.liveView) h, step_wPoll h]
    exact pollRow_liveView h
  case rPoll =>
    rw [step_rPoll (s := s.liveView) h, step_rPoll h]
    exact pollRow_liveView h
  case rRhr =>
    rw [step_rRhr (s := s.liveView) h, step_rRhr h]
    simp +decide [andThen, State.liveView, State.rhrAnswer, h]
  all_goals
    simp only [step_iClk, step_iCwgr, step_wMmr, step_wIadr, step_wMsen, step_wStart, step_wLstop,
      step_wDelay, step_wFstop, step_rMmr, step_rIadr, step_rStart, step_rDelay, step_rLstop,
      step_rFstop, step_rsp, h, liveView_phase, andThen]
    simp +decide [pollPhase, State.liveView, h]

theorem step_liveView_idle (h : s.phase = .idle) :
    andThen (step s.liveView) State.liveView = andThen (step s) State.liveView := by
  have hv : s.liveView.phase = .idle := h
  rcases hp : s.port with _ | ⟨cmd, rest⟩
  · rw [step_unasked hv hp, step_unasked h hp]
    simp +decide [andThen, State.liveView, h]
  · have ha : (s.accept cmd rest).phase = .idle := h
    have hva : (s.liveView.accept cmd rest).phase = .idle := h
    rcases hd : decodeCommand cmd.word with e | i
    · rw [step_illegal hv hp hd, step_illegal h hp hd]
    · rw [step_decoded hv hp hd, step_decoded h hp hd]
      rcases decodeCommand_ok hd with ⟨-, -, rfl⟩ | ⟨-, -, rfl⟩ | ⟨-, -, rfl⟩
      · simp only [exec, execInit, ha, hva]
        split <;> rfl
      · simp only [exec, execMasterWrite, ha, hva, admission_liveView_accept]
        split <;> rfl
      · simp only [exec, execMasterRead, ha, hva, admission_liveView_accept]
        split <;> rfl

/-- Settles O58: a step and the step from the live view lead to the same live view, so two states with one live
view step alike. -/
theorem deadLatchesUnread : Obligations.DeadLatchesUnread := by
  have hview (s : State) :
      andThen (step s.liveView) State.liveView = andThen (step s) State.liveView := by
    by_cases h : s.phase = .idle
    · exact step_liveView_idle h
    · exact step_liveView_busy h
  intro s t hst
  have hsame : andThen (step s) State.liveView = andThen (step t) State.liveView := by
    rw [← hview s, hst, hview t]
  rcases hs : step s <;> rcases ht : step t <;> simp_all [andThen]

end Sys2Proof.Machine
end

section
/-! PROOFS. The register map (20_memory.md R51, R52, R54): within a block the offsets tell the registers apart,
and the two blocks of fourteen words do not overlap. -/

namespace Sys2Proof

/-- The word number of `BASE[c]` (R51). -/
def Config.baseWord (c : Channel) : BitVec 30 :=
  if c = 0 then Config.baseWord0 else Config.baseWord1

theorem base_toNat (c : Channel) : (Config.base c).toNat = 4 * (Config.baseWord c).toNat := by
  have happend : Config.base c = Config.baseWord c ++ 0#2 := rfl
  rw [happend, BitVec.toNat_append, BitVec.toNat_ofNat, Nat.zero_mod, Nat.or_zero, Nat.shiftLeft_eq,
    Nat.mul_comm]

/-! ### The two blocks -/

theorem blocksDisjoint_iff (x y : BitVec 30) :
    Config.blocksDisjoint x y = true ↔ 14 ≤ (x - y).toNat ∧ 14 ≤ (y - x).toNat := by
  simp [Config.blocksDisjoint]

theorem blocksDisjoint_symm {x y : BitVec 30} (h : Config.blocksDisjoint x y = true) :
    Config.blocksDisjoint y x = true := by
  rw [blocksDisjoint_iff] at h ⊢
  exact h.symm

/-- Whichever of its two values `BASE[1]` takes, it keeps the blocks apart (R9, log entry 8). -/
theorem baseWord0_baseWord1_disjoint :
    Config.blocksDisjoint Config.baseWord0 Config.baseWord1 = true := by
  unfold Config.baseWord1
  split
  · assumption
  · rw [blocksDisjoint_iff]
    generalize Config.baseWord0 = x
    constructor <;> bv_omega

theorem baseWord_disjoint {c c' : Channel} (h : c ≠ c') :
    Config.blocksDisjoint (Config.baseWord c) (Config.baseWord c') = true := by
  rcases Machine.channel_cases c with rfl | rfl <;> rcases Machine.channel_cases c' with rfl | rfl
  · exact absurd rfl h
  · exact baseWord0_baseWord1_disjoint
  · exact blocksDisjoint_symm baseWord0_baseWord1_disjoint
  · exact absurd rfl h

end Sys2Proof

namespace Sys2Proof.Machine

/-! ### The offsets -/

theorem offset_injective {r r' : Reg} (h : r.offset = r'.offset) : r = r' := by
  revert h
  cases r <;> cases r' <;> decide

/-- An offset is one of the fourteen words of a block (R51). -/
theorem offset_in_block (r : Reg) : r.offset.toNat % 4 = 0 ∧ r.offset.toNat < 56 := by
  cases r <;> decide

/-! ### The addresses -/

theorem regAddress_toNat (c : Channel) (r : Reg) :
    (regAddress c r).toNat = (4 * (Config.baseWord c).toNat + r.offset.toNat) % 2 ^ 32 := by
  unfold regAddress
  rw [BitVec.toNat_add, base_toNat]

theorem regAddress_aligned (c : Channel) (r : Reg) : (regAddress c r).toNat % 4 = 0 := by
  have hoff := (offset_in_block r).1
  rw [regAddress_toNat]
  omega

/-- The registers of two channels have different addresses: each is within its own block (R54). -/
theorem regAddress_ne_of_channel_ne {c c' : Channel} (h : c ≠ c') (r r' : Reg) :
    regAddress c r ≠ regAddress c' r' := by
  intro heq
  have hnat := congrArg BitVec.toNat heq
  rw [regAddress_toNat, regAddress_toNat] at hnat
  obtain ⟨hfar, hfar'⟩ := (blocksDisjoint_iff _ _).1 (baseWord_disjoint h)
  rw [BitVec.toNat_sub] at hfar hfar'
  have hoff := offset_in_block r
  have hoff' := offset_in_block r'
  have hbase := (Config.baseWord c).isLt
  have hbase' := (Config.baseWord c').isLt
  omega

theorem regAddress_injective {c c' : Channel} {r r' : Reg} (h : regAddress c r = regAddress c' r') :
    c = c' ∧ r = r' := by
  by_cases hc : c = c'
  · subst hc
    exact ⟨rfl, offset_injective (add_left_cancel (a := Config.base c) h)⟩
  · exact absurd h (regAddress_ne_of_channel_ne hc r r')

/-- Settles O6: two registers of one channel differ in their offsets, two of different channels are in blocks
that do not overlap, and base and offset are both multiples of 4. -/
theorem registerMapInjective : Obligations.RegisterMapInjective :=
  ⟨fun _ _ => rfl, fun _ _ _ _ => regAddress_injective, regAddress_aligned⟩

end Sys2Proof.Machine
end

section
/-! PROOFS. The oracle decides what a step leads to and never whether there is one (20_memory.md R61): an
acceptance does not ask it, and a busy step answers whatever it says. -/

namespace Sys2Proof.Machine

variable {s : State}

/-- The state with another oracle: other scripts for SR and RHR and other free values to come (R61). -/
def State.withOracle (s : State) (sr rhr : List Word) (d : Nat) : State :=
  { s with srAnswers := sr, rhrAnswers := rhr, draws := d }

/-- The invariant does not speak of the oracle. -/
theorem withOracle_inv (sr rhr : List Word) (d : Nat) (h : s.Inv) : (s.withOracle sr rhr d).Inv := h

/-- Admission looks at the slots, which do not depend on the oracle. -/
theorem admission_withOracle_accept (sr rhr : List Word) (d : Nat) (cmd : PortCommand)
    (rest : List PortCommand) (handle : BitVec 2) (len : BitVec 16) :
    ((s.withOracle sr rhr d).accept cmd rest).admission handle len =
      (s.accept cmd rest).admission handle len := rfl

/-- A step in `IDLE` does not ask the oracle: with another one it does the same. -/
theorem step_withOracle_idle (sr rhr : List Word) (d : Nat) (h : s.phase = .idle) :
    step (s.withOracle sr rhr d) = andThen (step s) fun t => t.withOracle sr rhr d := by
  have ho : (s.withOracle sr rhr d).phase = .idle := h
  rcases hp : s.port with _ | ⟨cmd, rest⟩
  · rw [step_unasked ho hp, step_unasked h hp]
    rfl
  · have ha : (s.accept cmd rest).phase = .idle := h
    have hoa : ((s.withOracle sr rhr d).accept cmd rest).phase = .idle := h
    rcases hd : decodeCommand cmd.word with e | i
    · rw [step_illegal ho hp hd, step_illegal h hp hd]
      rfl
    · rw [step_decoded ho hp hd, step_decoded h hp hd]
      rcases decodeCommand_ok hd with ⟨-, -, rfl⟩ | ⟨-, -, rfl⟩ | ⟨-, -, rfl⟩
      · simp only [exec, execInit, ha, hoa]
        split <;> rfl
      · simp only [exec, execMasterWrite, ha, hoa, admission_withOracle_accept]
        split <;> rfl
      · simp only [exec, execMasterRead, ha, hoa, admission_withOracle_accept]
        split <;> rfl

theorem andThen_next_iff (o : Result) (f : State → State) :
    (∃ t, andThen o f = .next t) ↔ ∃ t, o = .next t := by
  cases o <;> simp [andThen]

/-- Settles O59: a step in `IDLE` is the same with every oracle, and a busy step of the invariant, which does not
speak of the oracle, always answers (`busy_total`). -/
theorem oracleNeverBlocks : Obligations.OracleNeverBlocks := by
  intro s sr rhr d hinv
  show (∃ t, step s = .next t) ↔ ∃ t, step (s.withOracle sr rhr d) = .next t
  by_cases h : s.phase = .idle
  · rw [step_withOracle_idle sr rhr d h, andThen_next_iff]
  · have hinv' := withOracle_inv sr rhr d hinv
    exact iff_of_true (busy_total hinv.1 h) (busy_total hinv'.1 h)

end Sys2Proof.Machine
end

section
/-! SUPPORT. The decoders by case (30_encoding.md R80 to R82, R95, R96), and why a word is fixed by its fields:
the decoder and the encoder are each other's inverse. -/

namespace Sys2Proof.Machine

variable {w : CmdWord}

/-! ### The command decoder, one equation per case -/

theorem decodeCommand_reservedOp (ho : field w 0 2 = 0) : decodeCommand w = .error .reservedOp := by
  simp [decodeCommand, ho]

theorem decodeCommand_reservedInitBits (ho : field w 0 2 = 1) (hr : field w 10 22 ≠ 0) :
    decodeCommand w = .error .reservedInitBits := by
  simpa [decodeCommand, ho] using hr

theorem decodeCommand_init (ho : field w 0 2 = 1) (hr : field w 10 22 = 0) :
    decodeCommand w = .ok (.init (field w 2 8) (field w 32 32)) := by
  simp [decodeCommand, ho, hr]

theorem decodeCommand_reservedTransactionBits (ho : field w 0 2 = 2 ∨ field w 0 2 = 3)
    (hr : field w 56 8 ≠ 0) : decodeCommand w = .error .reservedTransactionBits := by
  rcases ho with ho | ho <;> simpa [decodeCommand, ho] using hr

theorem decodeCommand_masterWrite (ho : field w 0 2 = 2) (hr : field w 56 8 = 0) :
    decodeCommand w = .ok (.masterWrite (field w 2 2) (field w 4 2) (field w 6 10) (field w 16 16)
      (field w 32 24)) := by
  simp [decodeCommand, ho, hr]

theorem decodeCommand_masterRead (ho : field w 0 2 = 3) (hr : field w 56 8 = 0) :
    decodeCommand w = .ok (.masterRead (field w 2 2) (field w 4 2) (field w 6 10) (field w 16 16)
      (field w 32 24)) := by
  simp [decodeCommand, ho, hr]

/-! ### A word is fixed by the fields of its format -/

theorem getLsbD_eq_of_field_eq {x y : CmdWord} {lo width k : Nat} (h : field x lo width = field y lo width)
    (hlo : lo ≤ k) (hhi : k < lo + width) : x.getLsbD k = y.getLsbD k := by
  have hbit := (field_eq_iff_bits x lo width (field y lo width)).1 h (k - lo) (by omega)
  rw [← (field_eq_iff_bits y lo width _).1 rfl (k - lo) (by omega)] at hbit
  rwa [Nat.add_sub_cancel' hlo] at hbit

/-- Format I (R81): the four fields cover the word. -/
theorem encodeInit_fields (ho : field w 0 2 = 1) (hr : field w 10 22 = 0) :
    encodeInit (field w 2 8) (field w 32 32) = w := by
  obtain ⟨hop, hchsel, hreserved, hclkper⟩ := fields_encodeInit (field w 2 8) (field w 32 32)
  rw [← ho] at hop
  rw [← hr] at hreserved
  apply BitVec.eq_of_getLsbD_eq
  intro k hk
  obtain h | h | h | h : k < 2 ∨ (2 ≤ k ∧ k < 10) ∨ (10 ≤ k ∧ k < 32) ∨ 32 ≤ k := by omega
  · exact getLsbD_eq_of_field_eq hop (by omega) (by omega)
  · exact getLsbD_eq_of_field_eq hchsel (by omega) (by omega)
  · exact getLsbD_eq_of_field_eq hreserved (by omega) (by omega)
  · exact getLsbD_eq_of_field_eq hclkper (by omega) (by omega)

/-- Format T (R82): the seven fields cover the word. -/
theorem encodeTransaction_fields {op : BitVec 2} (ho : field w 0 2 = op) (hr : field w 56 8 = 0) :
    encodeTransaction op (field w 2 2) (field w 4 2) (field w 6 10) (field w 16 16) (field w 32 24) = w := by
  subst ho
  obtain ⟨hop, hhandle, hiasz, hsadr, hlen, hiaddr, hreserved⟩ := fields_encodeTransaction (field w 0 2)
    (field w 2 2) (field w 4 2) (field w 6 10) (field w 16 16) (field w 32 24)
  rw [← hr] at hreserved
  apply BitVec.eq_of_getLsbD_eq
  intro k hk
  obtain h | h | h | h | h | h | h : k < 2 ∨ (2 ≤ k ∧ k < 4) ∨ (4 ≤ k ∧ k < 6) ∨ (6 ≤ k ∧ k < 16) ∨
    (16 ≤ k ∧ k < 32) ∨ (32 ≤ k ∧ k < 56) ∨ 56 ≤ k := by omega
  · exact getLsbD_eq_of_field_eq hop (by omega) (by omega)
  · exact getLsbD_eq_of_field_eq hhandle (by omega) (by omega)
  · exact getLsbD_eq_of_field_eq hiasz (by omega) (by omega)
  · exact getLsbD_eq_of_field_eq hsadr (by omega) (by omega)
  · exact getLsbD_eq_of_field_eq hlen (by omega) (by omega)
  · exact getLsbD_eq_of_field_eq hiaddr (by omega) (by omega)
  · exact getLsbD_eq_of_field_eq hreserved (by omega) (by omega)

/-! ### Decoding the encoding -/

theorem decodeCommand_encodeInit (chsel : BitVec 8) (clkper : Word) :
    decodeCommand (encodeInit chsel clkper) = .ok (.init chsel clkper) := by
  obtain ⟨hop, hchsel, hreserved, hclkper⟩ := fields_encodeInit chsel clkper
  rw [decodeCommand_init hop hreserved, hchsel, hclkper]

theorem decodeCommand_encodeTransaction_write (handle iasz : BitVec 2) (sadr : BitVec 10)
    (len : BitVec 16) (iaddr : BitVec 24) :
    decodeCommand (encodeTransaction 2 handle iasz sadr len iaddr) =
      .ok (.masterWrite handle iasz sadr len iaddr) := by
  obtain ⟨hop, hhandle, hiasz, hsadr, hlen, hiaddr, hreserved⟩ :=
    fields_encodeTransaction 2 handle iasz sadr len iaddr
  rw [decodeCommand_masterWrite hop hreserved, hhandle, hiasz, hsadr, hlen, hiaddr]

theorem decodeCommand_encodeTransaction_read (handle iasz : BitVec 2) (sadr : BitVec 10)
    (len : BitVec 16) (iaddr : BitVec 24) :
    decodeCommand (encodeTransaction 3 handle iasz sadr len iaddr) =
      .ok (.masterRead handle iasz sadr len iaddr) := by
  obtain ⟨hop, hhandle, hiasz, hsadr, hlen, hiaddr, hreserved⟩ :=
    fields_encodeTransaction 3 handle iasz sadr len iaddr
  rw [decodeCommand_masterRead hop hreserved, hhandle, hiasz, hsadr, hlen, hiaddr]

/-! ### The two decoders and the encoder are inverse -/

theorem encode_of_decodeCommand {i : Instr} (h : decodeCommand w = .ok i) :
    encode i = some (.command w) := by
  rcases decodeCommand_ok h with ⟨ho, hr, rfl⟩ | ⟨ho, hr, rfl⟩ | ⟨ho, hr, rfl⟩
  · rw [encode, encodeInit_fields ho hr]
  · rw [encode, encodeTransaction_fields ho hr]
  · rw [encode, encodeTransaction_fields ho hr]

theorem encodeInit_of_decodeCommand {chsel : BitVec 8} {clkper : Word}
    (h : decodeCommand w = .ok (.init chsel clkper)) : encodeInit chsel clkper = w :=
  Encoded.command.inj (Option.some.inj (encode_of_decodeCommand h))

theorem encodeTransaction_of_decodeCommand_write {handle iasz : BitVec 2} {sadr : BitVec 10}
    {len : BitVec 16} {iaddr : BitVec 24}
    (h : decodeCommand w = .ok (.masterWrite handle iasz sadr len iaddr)) :
    encodeTransaction 2 handle iasz sadr len iaddr = w :=
  Encoded.command.inj (Option.some.inj (encode_of_decodeCommand h))

theorem encodeTransaction_of_decodeCommand_read {handle iasz : BitVec 2} {sadr : BitVec 10}
    {len : BitVec 16} {iaddr : BitVec 24}
    (h : decodeCommand w = .ok (.masterRead handle iasz sadr len iaddr)) :
    encodeTransaction 3 handle iasz sadr len iaddr = w :=
  Encoded.command.inj (Option.some.inj (encode_of_decodeCommand h))

theorem decodeCommand_of_encode {i : Instr} (h : encode i = some (.command w)) :
    decodeCommand w = .ok i := by
  cases i <;> cases h
  case init chsel clkper => exact decodeCommand_encodeInit chsel clkper
  case masterWrite handle iasz sadr len iaddr =>
    exact decodeCommand_encodeTransaction_write handle iasz sadr len iaddr
  case masterRead handle iasz sadr len iaddr =>
    exact decodeCommand_encodeTransaction_read handle iasz sadr len iaddr

theorem encode_of_decodeCr {v : Word} {i : Instr} (h : decodeCr v = .ok i) :
    encode i = some (.cr v) := by
  unfold decodeCr at h
  repeat' split at h
  all_goals cases h
  all_goals subst v; rfl

theorem decodeCr_of_encode {v : Word} {i : Instr} (h : encode i = some (.cr v)) :
    decodeCr v = .ok i := by
  cases i <;> cases h <;> rfl

theorem decode_eq_ok_iff (e : Encoded) (i : Instr) : decode e = .ok i ↔ encode i = some e := by
  cases e with
  | command w => exact ⟨encode_of_decodeCommand, decodeCommand_of_encode⟩
  | cr v => exact ⟨encode_of_decodeCr, decodeCr_of_encode⟩

end Sys2Proof.Machine
end

section
/-! PROOFS. The round trip in both directions, the opcode map and the words of the test vectors (30_encoding.md
R81, R82, R95). -/

namespace Sys2Proof.Machine

/-- Settles O2: the encoder's word carries every operand in a field of its own, where the decoder reads it
(`decode_eq_ok_iff`). -/
theorem decodeOfEncode : Obligations.DecodeOfEncode :=
  fun i e h => (decode_eq_ok_iff e i).2 h

/-- Settles O3: the fields of the format cover the word and its reserved bits are 0 (`decode_eq_ok_iff`). -/
theorem encodeOfDecode : Obligations.EncodeOfDecode :=
  fun e i h => (decode_eq_ok_iff e i).1 h

/-! ### The rows of the opcode map -/

theorem exists_decodeCommand_init_iff (w : CmdWord) :
    (∃ chsel clkper, decodeCommand w = .ok (.init chsel clkper)) ↔
      w &&& 0x00000000FFFFFC03 = 0x0000000000000001 := by
  constructor
  · rintro ⟨chsel, clkper, h⟩
    rw [← encodeInit_of_decodeCommand h]
    exact Laws.OpcodeRow.init chsel clkper
  · intro h
    obtain ⟨ho, hr⟩ := (initRow_iff w).1 h
    exact ⟨_, _, decodeCommand_init ho hr⟩

theorem exists_decodeCommand_masterWrite_iff (w : CmdWord) :
    (∃ h z a l ia, decodeCommand w = .ok (.masterWrite h z a l ia)) ↔
      w &&& 0xFF00000000000003 = 0x0000000000000002 := by
  constructor
  · rintro ⟨handle, iasz, sadr, len, iaddr, h⟩
    rw [← encodeTransaction_of_decodeCommand_write h]
    exact Laws.OpcodeRow.masterWrite handle iasz sadr len iaddr
  · intro h
    obtain ⟨ho, hr⟩ := (transactionRow_iff w 2).1 h
    exact ⟨_, _, _, _, _, decodeCommand_masterWrite ho hr⟩

theorem exists_decodeCommand_masterRead_iff (w : CmdWord) :
    (∃ h z a l ia, decodeCommand w = .ok (.masterRead h z a l ia)) ↔
      w &&& 0xFF00000000000003 = 0x0000000000000003 := by
  constructor
  · rintro ⟨handle, iasz, sadr, len, iaddr, h⟩
    rw [← encodeTransaction_of_decodeCommand_read h]
    exact Laws.OpcodeRow.masterRead handle iasz sadr len iaddr
  · intro h
    obtain ⟨ho, hr⟩ := (transactionRow_iff w 3).1 h
    exact ⟨_, _, _, _, _, decodeCommand_masterRead ho hr⟩

/-- The mask of a CR row is every bit (R95). -/
theorem decodeCr_eq_ok_iff {i : Instr} {pattern : Word} (hi : encode i = some (.cr pattern)) (w : Word) :
    decodeCr w = .ok i ↔ w &&& 0xFFFFFFFF = pattern := by
  rw [show w &&& 0xFFFFFFFF = w from BitVec.and_allOnes, show decodeCr w = decode (.cr w) from rfl,
    decode_eq_ok_iff, hi]
  simp [eq_comm]

/-- Settles O4: each row's mask and match say what its decoder asks (`initRow_iff`, `transactionRow_iff`), and
`WAIT_FOR` has no word to decode from. -/
theorem opcodeMapDecides : Obligations.OpcodeMapDecides :=
  ⟨exists_decodeCommand_init_iff, exists_decodeCommand_masterWrite_iff, exists_decodeCommand_masterRead_iff,
   decodeCr_eq_ok_iff rfl, decodeCr_eq_ok_iff rfl, decodeCr_eq_ok_iff rfl, decodeCr_eq_ok_iff rfl,
   decodeCr_eq_ok_iff rfl,
   fun e ready h => nomatch (decode_eq_ok_iff e (.waitFor ready)).1 h⟩

/-- Settles O1, by evaluating the decoders on the seventeen words. -/
theorem specWordsDecode : Obligations.SpecWordsDecode :=
  ⟨rfl, rfl, rfl, rfl, rfl, rfl, rfl, rfl, rfl, rfl, rfl, rfl, rfl, rfl, rfl, rfl, rfl⟩

end Sys2Proof.Machine
end

section
/-! PROOFS. The mode-register word and the handles (30_encoding.md R85, R94). -/

namespace Sys2Proof.Machine

variable {w width width' : Nat}

/-! ### An operand shifted to its place -/

theorem field_shifted_self (v : BitVec width) {lo : Nat} (h : lo + width ≤ w) :
    field (v.setWidth w <<< lo) lo width = v := by
  apply BitVec.eq_of_getLsbD_eq
  intro k hk
  have hlt : lo + k < w := by omega
  simp [field, hk, hlt]

theorem field_shifted_disjoint (v : BitVec width) {lo lo' : Nat}
    (h : lo' + width' ≤ lo ∨ lo + width ≤ lo') : field (v.setWidth w <<< lo) lo' width' = 0 := by
  apply BitVec.eq_of_getLsbD_eq
  intro k hk
  rcases h with h | h
  · have hlt : lo' + k < lo := by omega
    simp [field, hlt]
  · have hbit : v.getLsbD (lo' + k - lo) = false := BitVec.getLsbD_of_ge _ _ (by omega)
    simp [field, hbit]

theorem shifted_and_shifted (v : BitVec width) (v' : BitVec width') {lo lo' : Nat}
    (h : lo + width ≤ lo' ∨ lo' + width' ≤ lo) :
    (v.setWidth w <<< lo) &&& (v'.setWidth w <<< lo') = 0 := by
  apply BitVec.eq_of_getLsbD_eq
  intro k hk
  by_cases hlo : k < lo
  · simp [hlo]
  by_cases hlo' : k < lo'
  · simp [hlo']
  rcases h with h | h
  · have hbit : v.getLsbD (k - lo) = false := BitVec.getLsbD_of_ge _ _ (by omega)
    simp [hbit]
  · have hbit : v'.getLsbD (k - lo') = false := BitVec.getLsbD_of_ge _ _ (by omega)
    simp [hbit]

/-! ### The three operands of the mode register -/

theorem fields_mmrWord (sadr : BitVec 10) (iasz : BitVec 2) (rd : BitVec 1) :
    field (mmrWord sadr iasz rd) 16 10 = sadr ∧ field (mmrWord sadr iasz rd) 8 2 = iasz ∧
      field (mmrWord sadr iasz rd) 12 1 = rd := by
  simp only [mmrWord, field_or]
  refine ⟨?_, ?_, ?_⟩ <;> simp (disch := omega) [field_shifted_self, field_shifted_disjoint]

/-- No two operands overlap, so no carry distinguishes the sum from the OR. -/
theorem mmrWord_eq_add (sadr : BitVec 10) (iasz : BitVec 2) (rd : BitVec 1) :
    mmrWord sadr iasz rd =
      (sadr.setWidth 32 <<< 16) + (iasz.setWidth 32 <<< 8) + (rd.setWidth 32 <<< 12) := by
  have hSadrIasz : (sadr.setWidth 32 <<< 16) &&& (iasz.setWidth 32 <<< 8) = 0 :=
    shifted_and_shifted sadr iasz (.inr (by omega))
  have hSadrRd : (sadr.setWidth 32 <<< 16) &&& (rd.setWidth 32 <<< 12) = 0 :=
    shifted_and_shifted sadr rd (.inr (by omega))
  have hIaszRd : (iasz.setWidth 32 <<< 8) &&& (rd.setWidth 32 <<< 12) = 0 :=
    shifted_and_shifted iasz rd (.inl (by omega))
  have hOrRd : ((sadr.setWidth 32 <<< 16) ||| (iasz.setWidth 32 <<< 8)) &&& (rd.setWidth 32 <<< 12) = 0 := by
    rw [BitVec.and_or_distrib_right, hSadrRd, hIaszRd, BitVec.or_self]
  rw [BitVec.add_eq_or_of_and_eq_zero _ _ hSadrIasz, BitVec.add_eq_or_of_and_eq_zero _ _ hOrRd, mmrWord]

/-- Settles O5: the operands read back from their fields, the reserved bits are 0 (`mmrWord_reserved`), and no
two fields overlap (`mmrWord_eq_add`). -/
theorem modeRegisterAssembly : Obligations.ModeRegisterAssembly := by
  refine ⟨fun sadr iasz rd => ?_, rfl, rfl, rfl, rfl⟩
  obtain ⟨hsadr, hiasz, hrd⟩ := fields_mmrWord sadr iasz rd
  exact ⟨hsadr, hiasz, hrd, mmrWord_reserved sadr iasz rd, mmrWord_eq_add sadr iasz rd⟩

/-- Settles O7, channel by channel. -/
theorem handleEncoding : Obligations.HandleEncoding :=
  ⟨rfl, rfl, by decide, by decide⟩

end Sys2Proof.Machine
end

section
/-! PROOFS. Which commands are refused in `IDLE`, and what an accepted one latches (30_encoding.md R83, R96). -/

namespace Sys2Proof.Machine

variable {s : State} {cmd : PortCommand} {rest : List PortCommand}

/-! ### Refusal -/

theorem exec_init_not_refused (chsel : BitVec 8) (clkper : Word) (h : s.phase = .idle) :
    ¬ ∃ why, exec (.init chsel clkper) s = .refused why := by
  simp only [exec, execInit, h]
  split <;> simp

theorem exec_masterWrite_refused_iff (handle iasz : BitVec 2) (sadr : BitVec 10) (len : BitVec 16)
    (iaddr : BitVec 24) (h : s.phase = .idle) :
    (∃ why, exec (.masterWrite handle iasz sadr len iaddr) s = .refused why) ↔
      s.admission handle len ≠ none := by
  simp only [exec, execMasterWrite, h]
  cases s.admission handle len <;> simp

theorem exec_masterRead_refused_iff (handle iasz : BitVec 2) (sadr : BitVec 10) (len : BitVec 16)
    (iaddr : BitVec 24) (h : s.phase = .idle) :
    (∃ why, exec (.masterRead handle iasz sadr len iaddr) s = .refused why) ↔
      s.admission handle len ≠ none := by
  simp only [exec, execMasterRead, h]
  cases s.admission handle len <;> simp

theorem admission_ne_none_iff {handle : BitVec 2} {len : BitVec 16} : s.admission handle len ≠ none ↔
    len = 0 ∨ handle = 0 ∨ handle = 3 ∨ (s.slot (channelOfHandle handle)).initDone = false := by
  rw [ne_eq, admission_none]
  simp only [not_and_or, not_not, ne_eq, Bool.not_eq_true]

section
variable (h : s.phase = .idle) (hp : s.port = cmd :: rest)
include h hp

/-- A word with `OP = 1` is refused for its reserved bits only (R96). -/
theorem step_init_refused_iff (ho : field cmd.word 0 2 = 1) :
    (∃ why, step s = .refused why) ↔ field cmd.word 10 22 ≠ 0 := by
  by_cases hr : field cmd.word 10 22 = 0
  · rw [step_decoded h hp (decodeCommand_init ho hr)]
    exact iff_of_false (exec_init_not_refused _ _ h) (not_not.2 hr)
  · exact iff_of_true ⟨_, step_illegal h hp (decodeCommand_reservedInitBits ho hr)⟩ hr

/-- A transaction is refused for its reserved bits, or by admission (R96). -/
theorem step_transaction_refused_iff (ho : field cmd.word 0 2 = 2 ∨ field cmd.word 0 2 = 3) :
    (∃ why, step s = .refused why) ↔ field cmd.word 56 8 ≠ 0 ∨
      s.admission (field cmd.word 2 2) (field cmd.word 16 16) ≠ none := by
  by_cases hr : field cmd.word 56 8 = 0
  · rw [or_iff_right (not_not.2 hr)]
    rcases ho with ho | ho
    · rw [step_decoded h hp (decodeCommand_masterWrite ho hr)]
      exact exec_masterWrite_refused_iff _ _ _ _ _ h
    · rw [step_decoded h hp (decodeCommand_masterRead ho hr)]
      exact exec_masterRead_refused_iff _ _ _ _ _ h
  · exact iff_of_true ⟨_, step_illegal h hp (decodeCommand_reservedTransactionBits ho hr)⟩ (.inl hr)

end

/-- Settles O9, by the operation code: `OP = 0` always, an `INIT` for its reserved bits, a transaction for its
reserved bits or at admission. -/
theorem refusedCommands : Obligations.RefusedCommands := by
  intro s cmd rest h hp
  rcases opcode_cases cmd.word with ho | ho | ho
  · exact iff_of_true ⟨_, step_illegal h hp (decodeCommand_reservedOp ho)⟩ (.inl ho)
  · rw [step_init_refused_iff h hp ho]
    simp [ho]
  · rw [step_transaction_refused_iff h hp ho, admission_ne_none_iff]
    rcases ho with ho' | ho' <;> simp [ho']

/-! ### Latching -/

theorem channelOfSelector_field (w : CmdWord) : channelOfSelector (field w 2 8) = field w 2 1 := by
  apply BitVec.eq_of_getLsbD_eq
  intro k hk
  obtain rfl : k = 0 := by omega
  simp [channelOfSelector, field]

theorem setWidth_opcode (w : CmdWord) : (field w 0 2).setWidth 1 = field w 0 1 := by
  apply BitVec.eq_of_getLsbD_eq
  intro k hk
  obtain rfl : k = 0 := by omega
  simp [field]

theorem selectorValid_iff (chsel : BitVec 8) : selectorValid chsel = true ↔ chsel = 0 ∨ chsel = 1 := by
  simp [selectorValid]

/-- The operands of a decoded `INIT` are its fields (R81). -/
theorem operands_of_init {w : CmdWord} {chsel : BitVec 8} {clkper : Word}
    (h : decodeCommand w = .ok (.init chsel clkper)) : chsel = field w 2 8 ∧ clkper = field w 32 32 := by
  obtain ⟨-, hchsel, -, hclkper⟩ := fields_encodeInit chsel clkper
  rw [encodeInit_of_decodeCommand h] at hchsel hclkper
  exact ⟨hchsel.symm, hclkper.symm⟩

/-- What a transaction word's admission latches, for either operation code (R83). -/
theorem latchTransaction_fields (s : State) {w : CmdWord} {op handle iasz : BitVec 2} {sadr : BitVec 10}
    {len : BitVec 16} {iaddr : BitVec 24} (hw : encodeTransaction op handle iasz sadr len iaddr = w) :
    (s.latchTransaction op handle iasz sadr len iaddr).c = (field w 2 2 - 1).setWidth 1 ∧
      (s.latchTransaction op handle iasz sadr len iaddr).iasz = field w 4 2 ∧
      (s.latchTransaction op handle iasz sadr len iaddr).sadr = field w 6 10 ∧
      (s.latchTransaction op handle iasz sadr len iaddr).len = field w 16 16 ∧
      (s.latchTransaction op handle iasz sadr len iaddr).iaddr = field w 32 24 ∧
      (s.latchTransaction op handle iasz sadr len iaddr).rd = field w 0 1 := by
  obtain ⟨hop, hhandle, hiasz, hsadr, hlen, hiaddr, -⟩ := fields_encodeTransaction op handle iasz sadr len iaddr
  rw [hw] at hop hhandle hiasz hsadr hlen hiaddr
  rw [← setWidth_opcode, hop, hhandle, hiasz, hsadr, hlen, hiaddr]
  exact ⟨rfl, rfl, rfl, rfl, rfl, rfl⟩

/-- Settles O10, in the four cases of an acceptance that answers a next state (`accept_next`). -/
theorem operandsLatched : Obligations.OperandsLatched := by
  intro s t cmd rest h hp hs
  rcases accept_next h hp hs with ⟨chsel, clkper, hd, -, rfl⟩ | ⟨chsel, clkper, hd, hinvalid, rfl⟩ |
    ⟨handle, iasz, sadr, len, iaddr, hd, -, rfl⟩ | ⟨handle, iasz, sadr, len, iaddr, hd, -, rfl⟩
  · obtain ⟨rfl, rfl⟩ := operands_of_init hd
    exact ⟨fun _ _ => ⟨rfl, channelOfSelector_field cmd.word⟩, fun ho => by simp [opcode_of_init hd] at ho⟩
  · obtain ⟨rfl, rfl⟩ := operands_of_init hd
    exact ⟨fun _ hsel => by simp [(selectorValid_iff _).2 hsel] at hinvalid,
      fun ho => by simp [opcode_of_init hd] at ho⟩
  · exact ⟨fun ho => by simp [opcode_of_masterWrite hd] at ho,
      fun _ => latchTransaction_fields (s.accept cmd rest) (encodeTransaction_of_decodeCommand_write hd)⟩
  · exact ⟨fun ho => by simp [opcode_of_masterRead hd] at ho,
      fun _ => latchTransaction_fields (s.accept cmd rest) (encodeTransaction_of_decodeCommand_read hd)⟩

end Sys2Proof.Machine
end

section
/-! PROOFS. `INIT` (40_init.md R111 to R114): its acceptance, its rows, its two whole runs, and that no step
touches a channel but the latched one. -/

namespace Sys2Proof.Machine

variable {s t : State}

/-! ### The handle an `INIT` answers (R84, R111) -/

theorem handleWord_toNat (c : Channel) : (handleWord c).toNat = c.toNat + 1 := by
  rcases channel_cases c with rfl | rfl <;> rfl

theorem handleWord_selector {chsel : BitVec 8} (h : chsel = 0 ∨ chsel = 1) :
    handleWord (chsel.setWidth 1) = chsel.setWidth 32 + 1 := by
  rcases h with rfl | rfl <;> rfl

/-! ### One event at a time -/

/-- Settles O14: a selector of 0 or 1 is valid, and the acceptance row latches it. -/
theorem initAccepted : Obligations.InitAccepted := by
  intro chsel clkper s h hsel
  simp only [exec, execInit, h, (selectorValid_iff chsel).2 hsel]
  rfl

/-- Settles O15: no other selector is valid, and the acceptance row goes straight to the response. -/
theorem initInvalidSelector : Obligations.InitInvalidSelector := by
  intro chsel clkper s h h0 h1
  have hinvalid : ¬ selectorValid chsel = true := fun hv => ((selectorValid_iff chsel).1 hv).elim h0 h1
  simp only [exec, execInit, h, if_neg hinvalid]
  rfl

/-- Settles O16: in a phase of its own the command is the step of that phase, and what the rows do to slot, gate
and CWGR is `iClk_registry` and `iCwgr_registry`. -/
theorem initEvents : Obligations.InitEvents := by
  refine fun chsel clkper s => ⟨fun h => ?_, fun h => ?_, fun h => ?_⟩
  · obtain ⟨-, hgate, -⟩ := iClk_registry h (step_iClk h) s.c
    rw [if_pos rfl] at hgate
    rw [exec_init_own _ _ (.inl (by rw [h]; rfl)), step_iClk h]
    exact ⟨_, rfl, rfl, hgate, by simp, by simp, by simp⟩
  · obtain ⟨hslot, -, hcwgr⟩ := iCwgr_registry h (step_iCwgr h) s.c
    rw [if_pos rfl] at hslot hcwgr
    rw [exec_init_own _ _ (.inl (by rw [h]; rfl)), step_iCwgr h]
    exact ⟨_, rfl, rfl, hcwgr, hslot, handleWord_toNat s.c, by simp⟩
  · rw [exec_init_own _ _ (.inr h), step_rsp h]
    rfl

/-! ### The other channel (R67, R114) -/

theorem busy_channel_ne {c : Channel} (h : s.phase ≠ .idle) (hs : step s = .next t) (hc : c ≠ s.c) :
    t.slot c = s.slot c ∧ t.blk c = s.blk c ∧ t.gate c = s.gate c := by
  have hblk := row_blk_ne (step_row h hs) hc
  by_cases hk : s.phase = .iClk
  · obtain ⟨hslot, hgate, -⟩ := iClk_registry hk hs c
    exact ⟨hslot, hblk, by rw [hgate, if_neg hc]⟩
  by_cases hw : s.phase = .iCwgr
  · obtain ⟨hslot, hgate, -⟩ := iCwgr_registry hw hs c
    exact ⟨by rw [hslot, if_neg hc], hblk, hgate⟩
  · obtain ⟨hslot, hgate, -⟩ := row_registry (step_row h hs) hk hw c
    exact ⟨hslot, hblk, hgate⟩

/-- Settles O60: acceptance touches no channel at all (O11), a busy step the latched one only. -/
theorem otherChannelUntouched : Obligations.OtherChannelUntouched := by
  intro s t c hs hcase
  by_cases h : s.phase = .idle
  · rcases hp : s.port with _ | ⟨cmd, rest⟩
    · rw [step_unasked h hp] at hs
      cases hs
      exact ⟨rfl, rfl, rfl⟩
    · obtain ⟨-, -, -, -, hbank, -⟩ := acceptanceFrame s t cmd rest h hp hs
      exact hbank c
  · exact busy_channel_ne h hs (hcase.resolve_left h)

/-! ### Whole runs -/

@[simp] theorem slot_result (w : Word) (c : Channel) : { s with result := w }.slot c = s.slot c := rfl
@[simp] theorem blk_result (w : Word) (c : Channel) : { s with result := w }.blk c = s.blk c := rfl
@[simp] theorem gate_result (w : Word) (c : Channel) : { s with result := w }.gate c = s.gate c := rfl

/-- What the first two rows of an `INIT` make of a state: the gate on, the divisor in CWGR and in the slot (R25,
R111). -/
def State.initialised (s : State) : State :=
  (((s.clockEnable s.c).goto .iCwgr).regWrite s.c .cwgr s.per).setSlot s.c
    { initDone := true, cwgrCfg := s.per }

theorem initialised_slot (s : State) :
    s.initialised.slot s.c = { initDone := true, cwgrCfg := s.per } := slot_setSlot _ _ _

theorem initialised_blk (s : State) : s.initialised.blk s.c = { s.blk s.c with cwgr := s.per } := by
  simp [State.initialised, RegBlock.write]

theorem initialised_gate (s : State) : s.initialised.gate s.c = .enabled := by
  simp [State.initialised]

theorem initialised_port (s : State) : s.initialised.port = s.port := by
  simp [State.initialised]

theorem initialised_trace (s : State) : s.initialised.trace =
    s.trace ++ [.clkEn (Config.pid s.c), .regWrite s.c .cwgr s.per] := by
  simp [State.initialised]

theorem initialised_channel_ne (s : State) {c : Channel} (hc : c ≠ s.c) :
    s.initialised.slot c = s.slot c ∧ s.initialised.blk c = s.blk c ∧ s.initialised.gate c = s.gate c := by
  simp [State.initialised, slot_setSlot_ne _ _ hc, blk_regWrite_ne _ _ _ hc, gate_enableGate_ne s hc]

theorem step_clockEnabled (s : State) : step ((s.clockEnable s.c).goto .iCwgr) =
    .next ({ s.initialised with result := handleWord s.c }.goto .rsp) := by
  rw [step_iCwgr rfl, show ((s.clockEnable s.c).goto .iCwgr).c = s.c by simp,
    show ((s.clockEnable s.c).goto .iCwgr).per = s.per by simp, State.initialised]

/-- The three rows of an `INIT` after its acceptance, run whole (R25, R111, R114). -/
theorem init_rows_run (h : s.phase = .iClk) : ∃ t : State, Host.Core.run core 3 s = .next t ∧
    t.phase = .idle ∧ t.port = s.port ∧
    t.trace = s.trace ++ [.clkEn (Config.pid s.c), .regWrite s.c .cwgr s.per, .rsp (handleWord s.c)] ∧
    t.slot s.c = { initDone := true, cwgrCfg := s.per } ∧
    t.blk s.c = { s.blk s.c with cwgr := s.per } ∧ t.gate s.c = .enabled ∧
    (∀ c, c ≠ s.c → t.slot c = s.slot c ∧ t.blk c = s.blk c ∧ t.gate c = s.gate c) := by
  have hrun := (run_next 2 (step_iClk h)).trans
    ((run_next 1 (step_clockEnabled s)).trans ((run_one _).trans (step_rsp rfl)))
  exact ⟨_, hrun, rfl, by simp [initialised_port], by simp [initialised_trace], by simp [initialised_slot],
    by simp [initialised_blk], by simp [initialised_gate], fun c hc => by simp [initialised_channel_ne s hc]⟩

/-- Settles O18: the acceptance of O14, then the rows of the `INIT` (`init_rows_run`). -/
theorem initRun : Obligations.InitRun := by
  intro s cmd rest chsel clkper h hp hd hsel
  have haccept := (step_decoded h hp hd).trans (initAccepted chsel clkper (s.accept cmd rest) h hsel)
  obtain ⟨t, hrun, hphase, hport, htrace, hslot, hblk, hgate, hother⟩ := init_rows_run (s :=
    { s.accept cmd rest with op := 1, c := chsel.setWidth 1, per := clkper, phase := .iClk }) rfl
  refine ⟨t, (run_next 3 haccept).trans hrun, hphase, hport, ⟨hphase, hslot, rfl⟩, ?_, hslot, hblk, hgate,
    hother⟩
  rw [htrace, handleWord_selector hsel]
  simp [State.accept]

/-- Settles O19: the acceptance of O15, which sets the null handle as the result, and the response. -/
theorem invalidInitRun : Obligations.InvalidInitRun := by
  intro s cmd rest chsel clkper h hp hd h0 h1
  have haccept := (step_decoded h hp hd).trans
    (initInvalidSelector chsel clkper (s.accept cmd rest) h h0 h1)
  refine ⟨_, (run_next 1 haccept).trans ((run_one _).trans (step_rsp rfl)), rfl, rfl, ?_,
    fun c => ⟨rfl, rfl, rfl⟩⟩
  simp [State.accept]

end Sys2Proof.Machine
end

section
/-! SUPPORT. `WAIT_FOR` one event at a time (41_poller.md R121 to R126): which row it runs in which phase, the
value it tests, and what its rows leave unchanged. -/

namespace Sys2Proof.Machine

variable {s t : State} {ready : ReadyBit}

/-! ### The tests on one sampled value (R89, R121) -/

theorem and_nack_ne_zero_iff (v : Word) : v &&& 0x100 ≠ 0 ↔ nackSet v = true :=
  decide_eq_true_iff.symm

theorem and_txrdy_ne_zero_iff (v : Word) : v &&& 0x4 ≠ 0 ↔ readySet .txrdy v = true :=
  decide_eq_true_iff.symm

theorem and_rxrdy_ne_zero_iff (v : Word) : v &&& 0x2 ≠ 0 ↔ readySet .rxrdy v = true :=
  decide_eq_true_iff.symm

/-- Values that agree under a mask agree under each part of it. -/
theorem and_eq_of_and_or_eq {v w a b : Word} (h : v &&& (a ||| b) = w &&& (a ||| b)) :
    v &&& a = w &&& a ∧ v &&& b = w &&& b := by
  have ha : (a ||| b) &&& a = a := by ext k; simp +contextual
  have hb : (a ||| b) &&& b = b := by ext k; simp +contextual
  constructor
  · rw [← ha, ← BitVec.and_assoc, h, BitVec.and_assoc]
  · rw [← hb, ← BitVec.and_assoc, h, BitVec.and_assoc]

/-- A poll decides on NACK and the requested ready bit alone (R126). -/
theorem pollVerdict_congr {v w : Word} (k : Nat)
    (h : v &&& (nackMask ||| readyMask ready) = w &&& (nackMask ||| readyMask ready)) :
    pollVerdict ready v k = pollVerdict ready w k := by
  obtain ⟨hnack, hready⟩ := and_eq_of_and_or_eq h
  have hn : nackSet v = nackSet w := by simp only [nackSet, hnack]
  have hr : readySet ready v = readySet ready w := by simp only [readySet, hready]
  rw [pollVerdict, hn, hr, pollVerdict]

/-! ### The rows -/

theorem exec_waitFor_poll (h : s.phase = pollPhase ready) :
    exec (.waitFor ready) s = s.pollRow ready := if_pos h

theorem exec_waitFor_delay (h : s.phase = delayPhase ready) :
    exec (.waitFor ready) s = .next (s.delayRow ready) :=
  (if_neg (h.trans_ne (delayPhase_ne_pollPhase ready))).trans (if_pos h)

theorem exec_waitFor_call (hp : s.phase ≠ pollPhase ready) (hd : s.phase ≠ delayPhase ready) :
    exec (.waitFor ready) s = .next (s.enterWait ready) :=
  (if_neg hp).trans (if_neg hd)

/-- What one event of `WAIT_FOR` can lead to. -/
theorem exec_waitFor_next (h : exec (.waitFor ready) s = .next t) :
    (s.phase = pollPhase ready ∧ s.pollRow ready = .next t) ∨
    (s.phase = delayPhase ready ∧ t = s.delayRow ready) ∨
    (s.phase ≠ pollPhase ready ∧ s.phase ≠ delayPhase ready ∧ t = s.enterWait ready) := by
  by_cases hp : s.phase = pollPhase ready
  · rw [exec_waitFor_poll hp] at h
    exact .inl ⟨hp, h⟩
  by_cases hd : s.phase = delayPhase ready
  · rw [exec_waitFor_delay hd] at h
    cases h; exact .inr (.inl ⟨hd, rfl⟩)
  · rw [exec_waitFor_call hp hd] at h
    cases h; exact .inr (.inr ⟨hp, hd, rfl⟩)

theorem step_pollPhase (h : s.phase = pollPhase ready) : step s = s.pollRow ready := by
  cases ready
  · exact step_wPoll h
  · exact step_rPoll h

theorem step_delayPhase (h : s.phase = delayPhase ready) : step s = .next (s.delayRow ready) := by
  cases ready
  · exact step_wDelay h
  · exact step_rDelay h

/-- With the budget used up there is no row (log entry 10). -/
theorem pollRow_spent (hn : ¬ s.n.toNat < Config.pollMax) :
    s.pollRow ready = .fault .positionOutsideTable := if_pos (Nat.le_of_not_lt hn)

theorem poll_n_toNat (hn : s.n.toNat < Config.pollMax) : s.poll.n.toNat = s.n.toNat + 1 := n_succ hn

/-! ### What the rows leave unchanged -/

/-- The return of a wait performs no event and writes `phase`, `i` and `result` only. -/
theorem waitReturns_frame {r : WaitResult} (h : s.waitReturns ready r = .next t) :
    t = { s with phase := t.phase, i := t.i, result := t.result } := by
  rcases waitReturns_next h with ⟨-, rfl⟩ | ⟨-, rfl⟩ | ⟨-, -, -, rfl⟩ | ⟨-, -, -, rfl⟩ | ⟨-, -, rfl⟩ <;> rfl

theorem forcedStopPhase_leaves (ready : ReadyBit) :
    forcedStopPhase ready ≠ pollPhase ready ∧ forcedStopPhase ready ≠ delayPhase ready := by
  cases ready <;> decide

/-- A wait that returns goes on neither polling nor delaying. -/
theorem waitReturns_leaves {r : WaitResult} (h : s.waitReturns ready r = .next t) :
    t.phase ≠ pollPhase ready ∧ t.phase ≠ delayPhase ready := by
  rcases waitReturns_next h with ⟨-, rfl⟩ | ⟨-, rfl⟩ | ⟨-, rfl, -, rfl⟩ | ⟨-, rfl, -, rfl⟩ | ⟨-, rfl, rfl⟩
  case inl | inr.inl => exact forcedStopPhase_leaves ready
  all_goals simp [pollPhase, delayPhase]

/-- A wait that returns `Ok` forces no STOP. -/
theorem waitReturns_ok_phase (h : s.waitReturns ready .ok = .next t) :
    t.phase ≠ forcedStopPhase ready := by
  rcases waitReturns_next h with ⟨hr, -⟩ | ⟨hr, -⟩ | ⟨-, rfl, -, rfl⟩ | ⟨-, rfl, -, rfl⟩ | ⟨-, rfl, rfl⟩
  case inl | inr.inl => cases hr
  all_goals simp [forcedStopPhase]

theorem pollRow_frame (h : s.pollRow ready = .next t) :
    t = { s.poll with phase := t.phase, i := t.i, result := t.result } := by
  obtain ⟨-, ⟨r, -, hw⟩ | ⟨-, rfl⟩⟩ := pollRow_next h
  · exact waitReturns_frame hw
  · rfl

/-- A poll after which the wait goes on keeps `i` and `result`. -/
theorem pollRow_goes_on (h : s.pollRow ready = .next t) (hd : t.phase = delayPhase ready) :
    t.i = s.i ∧ t.result = s.result := by
  obtain ⟨-, ⟨r, -, hw⟩ | ⟨-, rfl⟩⟩ := pollRow_next h
  · exact absurd hd (waitReturns_leaves hw).2
  · exact ⟨rfl, rfl⟩

/-- One event of `WAIT_FOR` writes no other fields than those that stand here as `u`'s. -/
theorem exec_waitFor_frame (h : exec (.waitFor ready) s = .next t) :
    ∃ u : State, t = { s with phase := u.phase, i := u.i, n := u.n, result := u.result,
                              srAnswers := u.srAnswers, draws := u.draws, trace := u.trace } := by
  rcases exec_waitFor_next h with ⟨-, hp⟩ | ⟨-, rfl⟩ | ⟨-, -, rfl⟩
  · exact ⟨{ s.poll with phase := t.phase, i := t.i, result := t.result }, pollRow_frame hp⟩
  · exact ⟨s.delayRow ready, rfl⟩
  · exact ⟨s.enterWait ready, rfl⟩

end Sys2Proof.Machine
end

section
/-! PROOFS. One event of `WAIT_FOR` (41_poller.md R121, R123, R125, R126, 10_state.md R25 rows `W_POLL`, `R_POLL`,
`W_DELAY`, `R_DELAY`). -/

namespace Sys2Proof.Machine

variable {s t : State} {ready : ReadyBit}

/-- Settles O22, by the delay row. -/
theorem waitDelay : Obligations.WaitDelay :=
  fun _ _ h => exec_waitFor_delay h

/-- Settles O23, by the call. -/
theorem waitCall : Obligations.WaitCall :=
  fun _ _ hp hd => exec_waitFor_call hp hd

/-- The poll row of a wait that ends, as `WAIT_FOR` runs it. -/
theorem exec_waitFor_some {r : WaitResult} (h : s.phase = pollPhase ready)
    (hn : s.n.toNat < Config.pollMax) (hv : pollVerdict ready s.srAnswer (s.n.toNat + 1) = some r) :
    exec (.waitFor ready) s = s.poll.waitReturns ready r :=
  (exec_waitFor_poll h).trans (pollRow_some hn hv)

/-- The poll row of a wait that goes on, as `WAIT_FOR` runs it. -/
theorem exec_waitFor_none (h : s.phase = pollPhase ready) (hn : s.n.toNat < Config.pollMax)
    (hv : pollVerdict ready s.srAnswer (s.n.toNat + 1) = none) :
    exec (.waitFor ready) s = .next (s.poll.goto (delayPhase ready)) :=
  (exec_waitFor_poll h).trans (pollRow_none hn hv)

/-! ### One poll, case by case -/

theorem waitReturns_last (hl : s.lastByte = true) :
    s.waitReturns .txrdy .ok = .next ({ s with result := countWord s.len }.goto .rsp) := if_pos hl

theorem waitReturns_more (hm : s.moreBytes = true) :
    s.waitReturns .txrdy .ok = .next ({ s with i := s.i + 1 }.goto .wBuf) := by
  have hl : ¬ s.lastByte = true := by
    rw [moreBytes_iff] at hm
    rw [lastByte_iff]
    omega
  exact (if_neg hl).trans (if_pos hm)

/-- Settles O20, by the verdict of the poll and, where it is `Ok`, by whether the byte is the last. -/
theorem writeWaitPoll : Obligations.WriteWaitPoll := by
  intro s h hn hi
  have hpolls := poll_n_toNat hn
  simp only [and_nack_ne_zero_iff, and_txrdy_ne_zero_iff]
  rcases hv : pollVerdict .txrdy s.srAnswer (s.n.toNat + 1) with _ | r
  · obtain ⟨hnack, hready, hbudget⟩ := pollVerdict_none hv
    refine ⟨_, exec_waitFor_none h hn hv, rfl, hpolls, ?_⟩
    simp [hnack, hready, hbudget, delayPhase]
  have hexec := exec_waitFor_some h hn hv
  rcases pollVerdict_some hv with ⟨rfl, hnack⟩ | ⟨rfl, hnack, hready⟩ | ⟨rfl, hnack, hready, hbudget⟩
  · refine ⟨_, hexec, rfl, hpolls, ?_⟩
    simp [hnack, forcedStopPhase]
  · rcases lastByte_or_moreBytes hi with hl | hm
    · refine ⟨_, hexec.trans (waitReturns_last (s := s.poll) hl), rfl, hpolls, ?_⟩
      simp [hnack, hready, (lastByte_iff s).1 hl, countWord]
    · have hnext : (s.i + 1#16).toNat = s.i.toNat + 1 := i_succ hi
      refine ⟨_, hexec.trans (waitReturns_more (s := s.poll) hm), rfl, hpolls, ?_⟩
      simp [hnack, hready, ((moreBytes_iff s).1 hm).ne, hnext, -BitVec.toNat_add]
  · refine ⟨_, hexec, rfl, hpolls, ?_⟩
    simp [hnack, hready, hbudget, forcedStopPhase]

/-- Settles O21, by the verdict of the poll. -/
theorem readWaitPoll : Obligations.ReadWaitPoll := by
  intro s h hn
  have hpolls := poll_n_toNat hn
  simp only [and_nack_ne_zero_iff, and_rxrdy_ne_zero_iff]
  rcases hv : pollVerdict .rxrdy s.srAnswer (s.n.toNat + 1) with _ | r
  · obtain ⟨hnack, hready, hbudget⟩ := pollVerdict_none hv
    refine ⟨_, exec_waitFor_none h hn hv, rfl, hpolls, rfl, ?_⟩
    simp [hnack, hready, hbudget, delayPhase]
  have hexec := exec_waitFor_some h hn hv
  rcases pollVerdict_some hv with ⟨rfl, hnack⟩ | ⟨rfl, hnack, hready⟩ | ⟨rfl, hnack, hready, hbudget⟩
  · refine ⟨_, hexec, rfl, hpolls, rfl, ?_⟩
    simp [hnack, forcedStopPhase]
  · refine ⟨_, hexec, rfl, hpolls, rfl, ?_⟩
    simp [hnack, hready]
  · refine ⟨_, hexec, rfl, hpolls, rfl, ?_⟩
    simp [hnack, hready, hbudget, forcedStopPhase]

/-- Settles O24, by the verdict of the poll: each verdict is reached in its own clause only. -/
theorem pollPriority : Obligations.PollPriority := by
  intro ready s t h hn ht
  rw [exec_waitFor_poll h] at ht
  obtain ⟨-, ⟨r, hv, hw⟩ | ⟨hv, rfl⟩⟩ := pollRow_next ht
  · rcases pollVerdict_some hv with ⟨rfl, hnack⟩ | ⟨rfl, hnack, hready⟩ | ⟨rfl, hnack, hready, hbudget⟩
    · cases hw
      simp [hnack]
    · have hphase := waitReturns_ok_phase hw
      obtain ⟨-, hdelay⟩ := waitReturns_leaves hw
      simp [hnack, hready, hphase, hdelay]
    · cases hw
      simp [hnack, hready, hbudget]
  · obtain ⟨hnack, hready, hbudget⟩ := pollVerdict_none hv
    simp [hnack, hready, hbudget]

/-- Settles O26: an event of `WAIT_FOR` writes none of those fields (`exec_waitFor_frame`), and of the others a
delay and a call only `n`, a poll after which the wait goes on neither `i` nor `result`. -/
theorem waitForFrame : Obligations.WaitForFrame := by
  intro ready s t h
  have hcounters : (s.phase ≠ pollPhase ready →
        t.i = s.i ∧ t.result = s.result ∧ t.srAnswers = s.srAnswers ∧ t.draws = s.draws) ∧
      (t.phase = delayPhase ready → t.i = s.i ∧ t.result = s.result) ∧
      (s.phase = delayPhase ready → t.n = s.n) := by
    rcases exec_waitFor_next h with ⟨hp, ht⟩ | ⟨-, rfl⟩ | ⟨-, hd, rfl⟩
    · exact ⟨fun hne => absurd hp hne, pollRow_goes_on ht,
        fun hd => absurd (hd.symm.trans hp) (delayPhase_ne_pollPhase ready)⟩
    · exact ⟨fun _ => ⟨rfl, rfl, rfl, rfl⟩, fun _ => ⟨rfl, rfl⟩, fun _ => rfl⟩
    · exact ⟨fun _ => ⟨rfl, rfl, rfl, rfl⟩, fun _ => ⟨rfl, rfl⟩, fun hd' => absurd hd' hd⟩
  obtain ⟨u, rfl⟩ := exec_waitFor_frame h
  exact ⟨rfl, rfl, rfl, rfl, rfl, rfl, rfl, rfl, rfl, rfl, fun _ => ⟨rfl, rfl, rfl⟩, fun _ => rfl, rfl,
    hcounters⟩

end Sys2Proof.Machine
end

section
/-! PROOFS. A whole wait (41_poller.md R121 to R126): the rows are the loop of the pseudocode, and the script of SR
says after how many polls the wait ends. -/

namespace Sys2Proof.Machine

variable {s t : State} {ready : ReadyBit}

/-! ### A poll that decides, and one that does not -/

theorem run_decided {r : WaitResult} (h : s.phase = pollPhase ready) (hn : s.n.toNat < Config.pollMax)
    (hv : pollVerdict ready s.srAnswer (s.n.toNat + 1) = some r) :
    Host.Core.run core 1 s = s.poll.waitReturns ready r := by
  rw [run_one, step_pollPhase h, pollRow_some hn hv]

theorem step_undecided (h : s.phase = pollPhase ready) (hn : s.n.toNat < Config.pollMax)
    (hv : pollVerdict ready s.srAnswer (s.n.toNat + 1) = none) :
    step s = .next (s.poll.goto (delayPhase ready)) := by
  rw [step_pollPhase h, pollRow_none hn hv]

/-- The delay row brings the wait back to where it polled. -/
theorem delayRow_after_poll (h : s.phase = pollPhase ready) :
    (s.poll.goto (delayPhase ready)).delayRow ready = s.poll.delay := by
  rw [delayRow_eq, ← h]
  rfl

/-- A poll that decides nothing costs two steps, itself and the delay. -/
theorem run_undecided (k : Nat) (h : s.phase = pollPhase ready) (hn : s.n.toNat < Config.pollMax)
    (hv : pollVerdict ready s.srAnswer (s.n.toNat + 1) = none) :
    Host.Core.run core (k + 2) s = Host.Core.run core k s.poll.delay := by
  rw [run_next _ (step_undecided h hn hv), run_next _ (step_delayPhase rfl), delayRow_after_poll h]

/-! ### The pseudocode (R121) -/

/-- The loop of the pseudocode tests what the poll row tests. -/
theorem waitLoop_eq (fuel : Nat) (hn : s.n.toNat < Config.pollMax) :
    waitLoop ready (fuel + 1) s = match pollVerdict ready s.srAnswer (s.n.toNat + 1) with
      | some r => (s.poll, r)
      | none => waitLoop ready fuel s.poll.delay := by
  simp only [waitLoop, pollVerdict, nackSet, readySet, poll_n_toNat hn, decide_eq_true_eq]
  split
  · rfl
  · split
    · rfl
    · split <;> rfl

theorem waitLoop_decided {r : WaitResult} (fuel : Nat) (hn : s.n.toNat < Config.pollMax)
    (hv : pollVerdict ready s.srAnswer (s.n.toNat + 1) = some r) :
    waitLoop ready (fuel + 1) s = (s.poll, r) := by
  rw [waitLoop_eq fuel hn, hv]

theorem waitLoop_undecided (fuel : Nat) (hn : s.n.toNat < Config.pollMax)
    (hv : pollVerdict ready s.srAnswer (s.n.toNat + 1) = none) :
    waitLoop ready (fuel + 1) s = waitLoop ready fuel s.poll.delay := by
  rw [waitLoop_eq fuel hn, hv]

/-- With `fuel + 1` polls left the rows do what the loop of the pseudocode says, in at most two steps a poll. -/
theorem rows_run_waitLoop (fuel : Nat) (h : s.phase = pollPhase ready)
    (hfuel : s.n.toNat + (fuel + 1) = Config.pollMax) :
    ∃ k, k ≤ 2 * fuel + 1 ∧ Host.Core.run core k s =
      (waitLoop ready (fuel + 1) s).1.waitReturns ready (waitLoop ready (fuel + 1) s).2 := by
  induction fuel generalizing s with
  | zero =>
    have hn : s.n.toNat < Config.pollMax := by omega
    rcases hv : pollVerdict ready s.srAnswer (s.n.toNat + 1) with _ | r
    · exact absurd hfuel (pollVerdict_none hv).2.2
    · exact ⟨1, le_rfl, by rw [run_decided h hn hv, waitLoop_decided 0 hn hv]⟩
  | succ fuel ih =>
    have hn : s.n.toNat < Config.pollMax := by omega
    rcases hv : pollVerdict ready s.srAnswer (s.n.toNat + 1) with _ | r
    · have hpolls : s.poll.delay.n.toNat = s.n.toNat + 1 := poll_n_toNat hn
      obtain ⟨k, hk, hrun⟩ := ih (s := s.poll.delay) h (by omega)
      exact ⟨k + 2, by omega, by rw [run_undecided k h hn hv, hrun, waitLoop_undecided _ hn hv]⟩
    · exact ⟨1, by omega, by rw [run_decided h hn hv, waitLoop_decided _ hn hv]⟩

/-- Settles O27: at the first poll `POLL_MAX` polls are left (`rows_run_waitLoop`). -/
theorem waitRowsAreThePseudocode : Obligations.WaitRowsAreThePseudocode := by
  intro ready s h hn
  have hcall : { s with n := 0 } = s := by rw [← hn]
  have hrun := rows_run_waitLoop (s := s) (ready := ready) 99 h (by rw [hn]; rfl)
  rw [waitWhole, hcall]
  exact hrun

/-! ### The events of a wait (R122, R125) -/

/-- What polls that answer these words record, when a delay follows each. -/
def undecidedEvents (c : Channel) : List Word → List Event
  | [] => []
  | w :: dead => .regRead c .sr w :: .delay Config.pollDelay :: undecidedEvents c dead

theorem srWords_undecidedEvents (c : Channel) (dead : List Word) (es : List Event) :
    srWords (undecidedEvents c dead ++ es) = dead ++ srWords es := by
  induction dead with
  | nil => rfl
  | cons w dead ih => simp [undecidedEvents, srWords, ih]

theorem delayCount_undecidedEvents (c : Channel) (dead : List Word) (es : List Event) :
    delayCount (undecidedEvents c dead ++ es) = dead.length + delayCount es := by
  induction dead with
  | nil => simp [undecidedEvents]
  | cons w dead ih => simp [undecidedEvents, delayCount, ih]; omega

theorem length_undecidedEvents (c : Channel) (dead : List Word) :
    (undecidedEvents c dead).length = 2 * dead.length := by
  induction dead with
  | nil => rfl
  | cons w dead ih => simp [undecidedEvents, ih]; omega

/-! ### A script of undecided answers -/

/-- A wait polls, and the next answers of its script, `dead`, have neither bit and are not its last polls; `more`
follows them. -/
structure UndecidedScript (ready : ReadyBit) (s : State) (dead more : List Word) : Prop where
  phase : s.phase = pollPhase ready
  budget : s.n.toNat + dead.length < Config.pollMax
  script : s.srAnswers = dead ++ more
  neither : ∀ w ∈ dead, nackSet w = false ∧ readySet ready w = false

/-- The state after these polls and their delays. -/
def State.afterUndecided (s : State) (dead more : List Word) : State :=
  { s with n := s.n + BitVec.ofNat 7 dead.length, srAnswers := more,
           trace := s.trace ++ undecidedEvents s.c dead }

theorem srAnswer_of_script {w : Word} {more : List Word} (hs : s.srAnswers = w :: more) :
    s.srAnswer = w := by
  simp [State.srAnswer, hs]

theorem afterUndecided_nil {more : List Word} (hs : s.srAnswers = more) : s.afterUndecided [] more = s := by
  subst hs
  simp [State.afterUndecided, undecidedEvents]

theorem afterUndecided_cons {w : Word} {dead more : List Word} (hs : s.srAnswers = w :: (dead ++ more)) :
    s.poll.delay.afterUndecided dead more = s.afterUndecided (w :: dead) more := by
  have hpolls : s.n + 1#7 + BitVec.ofNat 7 dead.length = s.n + BitVec.ofNat 7 (dead.length + 1) := by
    rw [BitVec.add_assoc, Nat.add_comm, BitVec.ofNat_add]
  simp [State.afterUndecided, undecidedEvents, State.delay, State.emit, State.readSr, srAnswer_of_script hs,
    hs, hpolls]

theorem afterUndecided_n_toNat {dead : List Word} (more : List Word)
    (h : s.n.toNat + dead.length < Config.pollMax) :
    (s.afterUndecided dead more).n.toNat = s.n.toNat + dead.length := by
  unfold Config.pollMax at h
  simp [State.afterUndecided]
  omega

namespace UndecidedScript

variable {w : Word} {dead more : List Word}

theorem verdict (h : UndecidedScript ready s (w :: dead) more) :
    s.n.toNat < Config.pollMax ∧ pollVerdict ready s.srAnswer (s.n.toNat + 1) = none := by
  have hbudget := h.budget
  rw [List.length_cons] at hbudget
  obtain ⟨hnack, hready⟩ := h.neither w List.mem_cons_self
  refine ⟨by omega, ?_⟩
  rw [srAnswer_of_script h.script]
  simp [pollVerdict, hnack, hready]
  omega

theorem tail (h : UndecidedScript ready s (w :: dead) more) :
    UndecidedScript ready s.poll.delay dead more where
  phase := h.phase
  budget := by
    have hpolls : s.poll.delay.n.toNat = s.n.toNat + 1 := poll_n_toNat h.verdict.1
    have hbudget := h.budget
    rw [List.length_cons] at hbudget
    omega
  script := congrArg List.tail h.script
  neither := fun v hv => h.neither v (List.mem_cons_of_mem w hv)

/-- Each of the polls is followed by its delay (R125). -/
theorem run (h : UndecidedScript ready s dead more) :
    Host.Core.run core (2 * dead.length) s = .next (s.afterUndecided dead more) := by
  induction dead generalizing s with
  | nil =>
    have hmore : s.srAnswers = more := h.script
    rw [afterUndecided_nil hmore]
    rfl
  | cons w dead ih =>
    obtain ⟨hn, hv⟩ := h.verdict
    rw [← afterUndecided_cons h.script, ← ih h.tail]
    exact run_undecided _ h.phase hn hv

theorem run_next_poll (h : UndecidedScript ready s dead more) :
    Host.Core.run core (2 * dead.length + 1) s = (s.afterUndecided dead more).pollRow ready := by
  rw [run_add 1 h.run, run_one, step_pollPhase (s := s.afterUndecided dead more) h.phase]

/-- Until then the wait polls or delays. -/
theorem run_phase (h : UndecidedScript ready s dead more) {k : Nat} {u : State} (hk : k ≤ 2 * dead.length)
    (hrun : Host.Core.run core k s = .next u) : u.phase = pollPhase ready ∨ u.phase = delayPhase ready := by
  induction dead generalizing s k with
  | nil =>
    obtain rfl : k = 0 := by simpa using hk
    cases hrun
    exact .inl h.phase
  | cons w dead ih =>
    obtain ⟨hn, hv⟩ := h.verdict
    rcases k with _ | _ | k
    · cases hrun
      exact .inl h.phase
    · rw [run_one, step_undecided h.phase hn hv] at hrun
      cases hrun
      exact .inr rfl
    · rw [run_undecided k h.phase hn hv] at hrun
      rw [List.length_cons] at hk
      exact ih h.tail (by omega) hrun

end UndecidedScript

/-! ### The answer that ends a wait -/

/-- After a decisive value the wait goes on neither polling nor delaying. -/
theorem decisive_poll_leaves (h : s.pollRow ready = .next t)
    (hv : nackSet s.srAnswer = true ∨ readySet ready s.srAnswer = true ∨ s.n.toNat + 1 = Config.pollMax) :
    t.phase ≠ pollPhase ready ∧ t.phase ≠ delayPhase ready := by
  obtain ⟨-, ⟨r, -, hw⟩ | ⟨hnone, -⟩⟩ := pollRow_next h
  · exact waitReturns_leaves hw
  · obtain ⟨hnack, hready, hbudget⟩ := pollVerdict_none hnone
    simp [hnack, hready, hbudget] at hv

/-- Settles O28: the polls before the decisive one are those of `UndecidedScript`, and what the decisive one leads
to is O24. -/
theorem waitEndsAtDecisiveAnswer : Obligations.WaitEndsAtDecisiveAnswer := by
  intro ready s dead v rest h hn hi hs hlen hdead hv
  have hpolls : s.n.toNat + dead.length = dead.length := by simp [hn]
  have hscript : UndecidedScript ready s dead (v :: rest) := ⟨h, hpolls.trans_lt hlen, hs, hdead⟩
  obtain ⟨u, hu⟩ : ∃ u, u = s.afterUndecided dead (v :: rest) := ⟨_, rfl⟩
  have huphase : u.phase = pollPhase ready := by rw [hu]; exact h
  have hun : u.n.toNat = dead.length := by rw [hu, afterUndecided_n_toNat _ hscript.budget, hpolls]
  have huv : u.srAnswer = v := by rw [hu]; rfl
  obtain ⟨t, ht⟩ := pollRow_total (s := u) ready (by rw [hun]; exact hlen) (by rw [hu]; exact hi)
  have hrun : Host.Core.run core (2 * dead.length + 1) s = .next t := by
    rw [hscript.run_next_poll, ← hu]
    exact ht
  obtain ⟨hnoAck, hok, htimeout⟩ := pollPriority ready u t huphase (by rw [hun]; exact hlen)
    ((exec_waitFor_poll huphase).trans ht)
  obtain ⟨hpoll, hdelay⟩ := decisive_poll_leaves ht (by rw [huv, hun]; exact hv)
  rw [huv] at hnoAck hok htimeout
  rw [hun] at htimeout
  refine ⟨t, undecidedEvents s.c dead ++ [.regRead s.c .sr v], hrun, ?_, ?_, ?_, ?_, ?_,
    fun k w hk => hscript.run_phase hk, hpoll, hdelay, hnoAck, fun hnack hready => (hok hnack hready).1,
    fun hnack hready => (htimeout hnack hready).1 ?_⟩
  · rw [pollRow_frame ht, hu]
    exact List.append_assoc _ _ _
  · rw [srWords_undecidedEvents]
    rfl
  · rw [delayCount_undecidedEvents]
    rfl
  · rw [pollRow_frame ht, hu]
    rfl
  · rw [List.length_append, length_undecidedEvents]
    rfl
  · simpa [hnack, hready] using hv

/-! ### The other bits of SR (R126) -/

/-- The return of a wait does not read the trace. -/
theorem waitReturns_trace (s : State) (r : WaitResult) (tr : List Event) :
    { s with trace := tr }.waitReturns ready r =
      andThen (s.waitReturns ready r) fun t => { t with trace := tr } := by
  cases r
  case ok =>
    cases ready
    case txrdy =>
      have hl : { s with trace := tr }.lastByte = s.lastByte := rfl
      have hm : { s with trace := tr }.moreBytes = s.moreBytes := rfl
      simp only [State.waitReturns, hl, hm]
      split
      · rfl
      · split <;> rfl
    case rxrdy => rfl
  case noAck => rfl
  case timeout => rfl

/-- A poll with another answer in the script records that one instead. -/
theorem poll_other_answer {v : Word} {rest : List Word} (hs : s.srAnswers = v :: rest) (w : Word) :
    { s with srAnswers := w :: rest }.poll =
      { s.poll with trace := s.trace ++ [.regRead s.c .sr w] } := by
  simp [State.readSr, State.emit, State.srAnswer, hs]

theorem pollRow_other_answer {v w : Word} {rest : List Word} (hs : s.srAnswers = v :: rest)
    (h : v &&& (nackMask ||| readyMask ready) = w &&& (nackMask ||| readyMask ready)) :
    { s with srAnswers := w :: rest }.pollRow ready =
      andThen (s.pollRow ready) fun t => { t with trace := s.trace ++ [.regRead s.c .sr w] } := by
  by_cases hn : s.n.toNat < Config.pollMax
  · have hsame : pollVerdict ready w (s.n.toNat + 1) = pollVerdict ready s.srAnswer (s.n.toNat + 1) := by
      rw [srAnswer_of_script hs, pollVerdict_congr _ h]
    rcases hv : pollVerdict ready s.srAnswer (s.n.toNat + 1) with _ | r
    · rw [pollRow_none hn hv, pollRow_none (s := { s with srAnswers := w :: rest }) hn (hsame.trans hv),
        poll_other_answer hs]
      rfl
    · rw [pollRow_some hn hv, pollRow_some (s := { s with srAnswers := w :: rest }) hn (hsame.trans hv),
        poll_other_answer hs, waitReturns_trace]
  · rw [pollRow_spent hn, pollRow_spent (s := { s with srAnswers := w :: rest }) hn]
    rfl

/-- A wait that reads `POLL_MAX` times a value with neither bit times out. -/
theorem run_timeout {w : Word} {rest : List Word} (h : s.phase = pollPhase ready) (hn : s.n = 0)
    (hs : s.srAnswers = List.replicate Config.pollMax w ++ rest)
    (hw : nackSet w = false ∧ readySet ready w = false) :
    ∃ t : State, Host.Core.run core (2 * Config.pollMax - 1) s = .next t ∧
      t.phase = forcedStopPhase ready ∧ t.result = Config.eTimeout := by
  have hscript : UndecidedScript ready s (List.replicate 99 w) (w :: rest) := by
    refine ⟨h, by rw [hn, List.length_replicate]; decide, ?_, fun v hv => ?_⟩
    · rw [hs, Config.pollMax, List.replicate_succ', List.append_assoc]
      rfl
    · rwa [List.eq_of_mem_replicate hv]
  obtain ⟨u, hu⟩ : ∃ u, u = s.afterUndecided (List.replicate 99 w) (w :: rest) := ⟨_, rfl⟩
  have hun : u.n.toNat = 99 := by
    rw [hu, afterUndecided_n_toNat _ hscript.budget, hn, List.length_replicate]
    rfl
  have hv : pollVerdict ready u.srAnswer (u.n.toNat + 1) = some .timeout := by
    have huw : u.srAnswer = w := by rw [hu]; rfl
    simp [pollVerdict, huw, hw, hun, Config.pollMax]
  have hrun := hscript.run_next_poll
  rw [← hu, pollRow_some (by rw [hun]; decide) hv, List.length_replicate] at hrun
  exact ⟨_, hrun, rfl, rfl⟩

/-- Settles O25: the poll row tests the two bits only (`pollRow_other_answer`), and the other ready bit alone is a
value with neither (`run_timeout`). -/
theorem unusedStatusBitsIgnored : Obligations.UnusedStatusBitsIgnored := by
  refine ⟨fun ready s v w rest h hs hmask => ?_, fun ready s rest h hn hs => ?_⟩
  · rw [exec_waitFor_poll h, exec_waitFor_poll (s := { s with srAnswers := w :: rest }) h,
      pollRow_other_answer hs hmask]
    cases s.pollRow ready <;> rfl
  · cases ready
    case txrdy => exact run_timeout h hn hs (by decide)
    case rxrdy => exact run_timeout h hn hs (by decide)

end Sys2Proof.Machine
end

section
/-! PROOFS. One event of a write (42_master_write.md R130 to R134): in a phase of its own the command is the step of
that phase. -/

namespace Sys2Proof.Machine

/-- Settles O32: both are the poll row in the poll phase and the delay row in the delay phase. -/
theorem writeCallsWaitFor : Obligations.WriteCallsWaitFor := by
  intro handle iasz sadr len iaddr s h
  rcases h with h | h
  · rw [exec_masterWrite_own _ _ _ _ _ (.inl (by rw [h]; rfl)), step_wPoll h]
    exact (exec_waitFor_poll h).symm
  · rw [exec_masterWrite_own _ _ _ _ _ (.inl (by rw [h]; rfl)), step_wDelay h]
    exact (exec_waitFor_delay h).symm

/-- Settles O30, by the row of each of the four set-up phases. -/
theorem writeSetUp : Obligations.WriteSetUp := by
  refine fun handle iasz sadr len iaddr s => ⟨fun h => ?_, fun h => ?_, fun h => ?_, fun h => ?_⟩
  all_goals rw [exec_masterWrite_own _ _ _ _ _ (.inl (by rw [h]; rfl))]
  · rw [step_wMmr h]
    exact ⟨_, rfl, rfl, by simp [RegBlock.write], by simp⟩
  · rw [step_wIadr h]
    exact ⟨_, rfl, rfl, by simp [RegBlock.write, iadrWord], by simp [iadrWord]⟩
  · rw [step_wMsen h, regWrite_cr]
    rfl
  · rw [step_wStart h, regWrite_cr]
    rfl

/-- Settles O31, by the rows of the three phases; after THR it turns on whether the byte is the last. -/
theorem writeByte : Obligations.WriteByte := by
  refine fun handle iasz sadr len iaddr s hi => ⟨fun h => ?_, fun h => ?_, fun h => ?_⟩
  all_goals rw [exec_masterWrite_own _ _ _ _ _ (.inl (by rw [h]; rfl))]
  · rw [step_wBuf h, if_pos hi]
    exact ⟨_, rfl, rfl, rfl, rfl, rfl⟩
  · have hthr : ((s.regWrite s.c .thr (thrWord s.b)).blk s.c).thr = thrWord s.b := by
      rw [blk_regWrite]
      rfl
    rw [step_wThr h]
    rcases lastByte_or_moreBytes hi with hl | hm
    · rw [if_pos hl]
      have hlast := (lastByte_iff s).1 hl
      exact ⟨_, rfl, by simp [hlast], by simp [hlast], hthr, by simp [thrWord]⟩
    · have hmore := (moreBytes_iff s).1 hm
      rw [if_neg (by rw [lastByte_iff]; omega), if_pos hm]
      exact ⟨_, rfl, by simp [hmore.ne, pollPhase], by simp [hmore.ne], hthr, by simp [thrWord]⟩
  · rw [step_wLstop h, regWrite_cr]
    rfl

end Sys2Proof.Machine
end

section
/-! SUPPORT. A transaction's wait, run from its call (41_poller.md R121, R122): what it changes, that it does not
depend on the phase it is called in, and the forced STOP after it (60_exceptions.md R171). -/

namespace Sys2Proof.Machine

variable {s t u : State} {ready : ReadyBit}

/-! ### What a wait changes -/

/-- The events of a wait: reads of SR and delays (R122, R125). -/
def Event.ofWait : Event → Bool
  | .regRead _ .sr _ => true
  | .delay _ => true
  | _ => false

/-- A wait leads from `s` to `t`: it polls and delays, counts its polls and draws answers of SR. -/
def State.Waited (s t : State) : Prop :=
  ∃ n answers draws es, (∀ e ∈ es, Event.ofWait e = true) ∧
    t = { s with n := n, srAnswers := answers, draws := draws, trace := s.trace ++ es }

theorem State.Waited.refl (s : State) : s.Waited s :=
  ⟨s.n, s.srAnswers, s.draws, [], by simp, by simp⟩

theorem State.Waited.trans (h : s.Waited t) (h' : t.Waited u) : s.Waited u := by
  obtain ⟨_, _, _, es, hes, rfl⟩ := h
  obtain ⟨n, answers, draws, es', hes', rfl⟩ := h'
  exact ⟨n, answers, draws, es ++ es', List.forall_mem_append.2 ⟨hes, hes'⟩, by simp⟩

theorem poll_waited (s : State) : s.Waited s.poll :=
  ⟨_, _, _, [.regRead s.c .sr s.srAnswer], by simp [Event.ofWait], rfl⟩

theorem delay_waited (s : State) : s.Waited s.delay :=
  ⟨_, _, _, [.delay Config.pollDelay], by simp [Event.ofWait], rfl⟩

theorem waitLoop_waited (ready : ReadyBit) (fuel : Nat) (s : State) : s.Waited (waitLoop ready fuel s).1 := by
  induction fuel generalizing s with
  | zero => exact State.Waited.refl s
  | succ fuel ih =>
    simp only [waitLoop]
    split
    · exact poll_waited s
    split
    · exact poll_waited s
    split
    · exact poll_waited s
    · exact ((poll_waited s).trans (delay_waited s.poll)).trans (ih s.poll.delay)

theorem waitWhole_waited (ready : ReadyBit) (s : State) : s.Waited (waitWhole ready s).1 := by
  have hcall : s.Waited { s with n := 0 } := ⟨0, s.srAnswers, s.draws, [], by simp, by simp⟩
  exact hcall.trans (waitLoop_waited ready _ _)

/-! ### The phase a wait is called in -/

theorem goto_goto (s : State) (p q : Phase) : (s.goto p).goto q = s.goto q := rfl

theorem enterWait_goto (s : State) (p : Phase) : (s.goto p).enterWait ready = s.enterWait ready := rfl

theorem regWrite_goto (s : State) (p : Phase) (c : Channel) (r : Reg) (v : Word) :
    (s.goto p).regWrite c r v = (s.regWrite c r v).goto p := by
  rcases channel_cases c with rfl | rfl <;> rfl

/-- The pseudocode of a wait does not look at the phase. -/
theorem waitLoop_goto (ready : ReadyBit) (fuel : Nat) (s : State) (p : Phase) :
    waitLoop ready fuel (s.goto p) = ((waitLoop ready fuel s).1.goto p, (waitLoop ready fuel s).2) := by
  induction fuel generalizing s with
  | zero => rfl
  | succ fuel ih =>
    have hpoll : (s.goto p).poll = s.poll.goto p := rfl
    have hdelay : (s.poll.goto p).delay = s.poll.delay.goto p := rfl
    have hsr : (s.goto p).srAnswer = s.srAnswer := rfl
    have hn : (s.poll.goto p).n = s.poll.n := rfl
    simp only [waitLoop, hpoll, hdelay, hsr, hn, ih]
    split
    · rfl
    split
    · rfl
    split <;> rfl

/-- The rows of a wait, run from its call, are the pseudocode's wait (O27). -/
theorem enterWait_run (ready : ReadyBit) (s : State) :
    ∃ k, k ≤ 2 * Config.pollMax - 1 ∧ Host.Core.run core k (s.enterWait ready) =
      ((waitWhole ready s).1.goto (pollPhase ready)).waitReturns ready (waitWhole ready s).2 := by
  obtain ⟨k, hk, hrun⟩ := waitRowsAreThePseudocode ready (s.enterWait ready) rfl rfl
  have hwhole : waitWhole ready (s.enterWait ready) =
      ((waitWhole ready s).1.goto (pollPhase ready), (waitWhole ready s).2) :=
    waitLoop_goto ready Config.pollMax { s with n := 0 } (pollPhase ready)
  rw [hwhole] at hrun
  exact ⟨k, hk, hrun⟩

/-! ### The forced STOP -/

theorem step_forcedStop (h : s.phase = forcedStopPhase ready) :
    step s = .next ((s.regWrite s.c .cr crStopWord).goto .rsp) := by
  cases ready
  · exact step_wFstop h
  · exact step_rFstop h

/-- A fault of a wait takes two more steps: the forced STOP and the response (R171). -/
theorem raiseFault_run (ready : ReadyBit) (s : State) (code : Word) :
    Host.Core.run core 2 (s.raiseFault ready code) = .next (s.failWith code) := by
  rw [run_next 1 (step_forcedStop rfl), run_one, step_rsp rfl, State.failWith, regWrite_cr, regWrite_cr]
  rfl

end Sys2Proof.Machine
end

section
/-! PROOFS. A write run whole (42_master_write.md R130, 10_state.md R25): its rows are the pseudocode, byte by
byte. -/

namespace Sys2Proof.Machine

variable {s t : State} {more : Nat}

/-! ### One byte of the pseudocode -/

/-- The byte at `i` read from the buffer (R130 step 3). -/
def State.byteRead (s : State) : State := { s.bufRead s.i.toNat with b := s.bufByte s.i.toNat }

/-- The byte at `i` handed to THR (R130 step 3a). -/
def State.byteOut (s : State) : State := s.byteRead.regWrite s.c .thr (thrWord (s.bufByte s.i.toNat))

/-- Where the wait for the byte at `i` begins: the last byte's STOP is written before it (R130 step 3b). -/
def State.byteHanded (s : State) : State :=
  if s.lastByte then s.byteOut.regWrite s.c .cr crStopWord else s.byteOut

theorem i_eq_pred_iff (hi : s.i.toNat < s.len.toNat) : s.i = s.len - 1 ↔ s.lastByte = true := by
  rw [lastByte_iff]
  bv_omega

theorem writeByte_eq (hi : s.i.toNat < s.len.toNat) : s.writeByte = waitWhole .txrdy s.byteHanded := by
  have hbyte : s.writeByte = waitWhole .txrdy (if s.byteOut.i = s.byteOut.len - 1
      then s.byteOut.regWrite s.byteOut.c .cr crStopWord else s.byteOut) := rfl
  have hi' : s.byteOut.i = s.i := regWrite_i _ _ _ _
  have hlen : s.byteOut.len = s.len := regWrite_len _ _ _ _
  have hc : s.byteOut.c = s.c := regWrite_c _ _ _ _
  rw [hbyte, hi', hlen, hc, State.byteHanded]
  simp only [i_eq_pred_iff hi]

/-! ### The loop, by what its byte's wait returns -/

theorem writeLoop_noAck (h : s.writeByte = (t, .noAck)) : writeLoop more s = t.failWith Config.eNoAck := by
  cases more <;> rw [writeLoop, h]

theorem writeLoop_timeout (h : s.writeByte = (t, .timeout)) :
    writeLoop more s = t.failWith Config.eTimeout := by
  cases more <;> rw [writeLoop, h]

theorem writeLoop_last (h : s.writeByte = (t, .ok)) :
    writeLoop 0 s = { t with result := countWord t.len }.respond := by
  rw [writeLoop, h]

theorem writeLoop_more (h : s.writeByte = (t, .ok)) :
    writeLoop (more + 1) s = writeLoop more { t with i := t.i + 1 } := by
  rw [writeLoop, h]

/-! ### The rows of one byte -/

theorem step_bufferByte (hi : s.i.toNat < s.len.toNat) :
    step (s.goto .wBuf) = .next (s.byteRead.goto .wThr) :=
  (step_wBuf rfl).trans (if_pos hi)

theorem step_wThr_last (h : s.phase = .wThr) (hl : s.lastByte = true) :
    step s = .next ((s.regWrite s.c .thr (thrWord s.b)).goto .wLstop) :=
  (step_wThr h).trans (if_pos hl)

theorem step_wThr_more (h : s.phase = .wThr) (hm : s.moreBytes = true) :
    step s = .next ((s.regWrite s.c .thr (thrWord s.b)).enterWait .txrdy) := by
  have hl : ¬ s.lastByte = true := by
    rw [moreBytes_iff] at hm
    rw [lastByte_iff]
    omega
  exact ((step_wThr h).trans (if_neg hl)).trans (if_pos hm)

theorem byteRead_thr (s : State) : (s.byteRead.goto .wThr).regWrite (s.byteRead.goto .wThr).c .thr
    (thrWord (s.byteRead.goto .wThr).b) = s.byteOut.goto .wThr := regWrite_goto _ _ _ _ _

theorem step_thrLast (hl : s.lastByte = true) :
    step (s.byteRead.goto .wThr) = .next (s.byteOut.goto .wLstop) := by
  have hl' : (s.byteRead.goto .wThr).lastByte = true := by
    simpa [State.lastByte, State.byteRead] using hl
  rw [step_wThr_last rfl hl', byteRead_thr, goto_goto]

theorem step_thrMore (hm : s.moreBytes = true) :
    step (s.byteRead.goto .wThr) = .next (s.byteOut.enterWait .txrdy) := by
  have hm' : (s.byteRead.goto .wThr).moreBytes = true := by
    simpa [State.moreBytes, State.byteRead] using hm
  rw [step_wThr_more rfl hm', byteRead_thr, enterWait_goto]

theorem step_lastStop (s : State) :
    step (s.byteOut.goto .wLstop) = .next ((s.byteOut.regWrite s.c .cr crStopWord).enterWait .txrdy) := by
  have hc : (s.byteOut.goto .wLstop).c = s.c := regWrite_c _ _ _ _
  rw [step_wLstop rfl, regWrite_goto, enterWait_goto, hc]

/-- The rows up to the wait: two, and the STOP's for the last byte. -/
theorem byteHanded_run (hi : s.i.toNat < s.len.toNat) :
    Host.Core.run core (if s.lastByte then 3 else 2) (s.goto .wBuf) =
      .next (s.byteHanded.enterWait .txrdy) := by
  by_cases hl : s.lastByte = true
  · rw [if_pos hl, State.byteHanded, if_pos hl, run_next 2 (step_bufferByte hi), run_next 1 (step_thrLast hl),
      run_one, step_lastStop]
    rfl
  · have hm := (lastByte_or_moreBytes hi).resolve_left hl
    rw [if_neg hl, State.byteHanded, if_neg hl, run_next 1 (step_bufferByte hi), run_one, step_thrMore hm]
    rfl

/-- The rows of one byte up to the return of its wait are the pseudocode's iteration. -/
theorem writeByte_run (hi : s.i.toNat < s.len.toNat) :
    ∃ k, k ≤ (if s.lastByte then 3 else 2) + 199 ∧
      Host.Core.run core k (s.goto .wBuf) =
        (s.writeByte.1.goto .wPoll).waitReturns .txrdy s.writeByte.2 := by
  obtain ⟨k, hk, hrun⟩ := enterWait_run .txrdy s.byteHanded
  refine ⟨_, Nat.add_le_add_left hk _, ?_⟩
  rw [run_add k (byteHanded_run hi), hrun, writeByte_eq hi]
  rfl

/-! ### What an iteration leaves unchanged -/

theorem byteHanded_frame (s : State) : s.byteHanded.i = s.i ∧ s.byteHanded.len = s.len ∧
    s.byteHanded.port = s.port ∧ s.byteHanded.buffer = s.buffer := by
  unfold State.byteHanded State.byteOut State.byteRead
  split <;> simp

theorem writeByte_frame (hi : s.i.toNat < s.len.toNat) : ∃ t r, s.writeByte = (t, r) ∧
    t.i = s.i ∧ t.len = s.len ∧ t.port = s.port ∧ t.buffer = s.buffer := by
  obtain ⟨_, _, _, _, -, ht⟩ := waitWhole_waited .txrdy s.byteHanded
  refine ⟨s.writeByte.1, s.writeByte.2, rfl, ?_⟩
  rw [writeByte_eq hi, ht]
  exact byteHanded_frame s

/-! ### The loop -/

/-- A byte whose wait has failed leaves the forced STOP and the response (R136), as in the pseudocode. -/
theorem failed_byte_run {u : State} {r : WaitResult} {k : Nat} (more : Nat) (hb : s.writeByte = (t, r))
    (hr : r ≠ .ok) (h : Host.Core.run core k u = (t.goto .wPoll).waitReturns .txrdy r) :
    Host.Core.run core (k + 2) u = .next (writeLoop more s) := by
  cases r with
  | ok => exact absurd rfl hr
  | noAck =>
    rw [run_add 2 h, writeLoop_noAck hb]
    exact raiseFault_run .txrdy t Config.eNoAck
  | timeout =>
    rw [run_add 2 h, writeLoop_timeout hb]
    exact raiseFault_run .txrdy t Config.eTimeout

/-- With `more` bytes after this one the rows do what the byte loop of the pseudocode says, in 201 steps a byte and
three more: the last byte's STOP, the forced one and the response. -/
theorem writeLoop_run (more : Nat) (hlen : s.i.toNat + more + 1 = s.len.toNat) :
    ∃ k, k ≤ (more + 1) * 201 + 3 ∧
      Host.Core.run core k (s.goto .wBuf) = .next (writeLoop more s) := by
  induction more generalizing s with
  | zero =>
    have hi : s.i.toNat < s.len.toNat := by omega
    have hl : s.lastByte = true := (lastByte_iff s).2 hlen
    obtain ⟨k, hk, hrun⟩ := writeByte_run hi
    obtain ⟨t, r, hb, hti, htlen, -, -⟩ := writeByte_frame hi
    rw [if_pos hl] at hk
    rw [hb] at hrun
    by_cases hr : r = .ok
    · subst hr
      have htl : (t.goto .wPoll).lastByte = true := by
        rw [lastByte_iff, goto_i, goto_len, hti, htlen]
        exact hlen
      rw [waitReturns_last htl] at hrun
      refine ⟨k + 1, by omega, ?_⟩
      rw [run_add 1 hrun, run_one, step_rsp rfl, writeLoop_last hb]
      rfl
    · exact ⟨k + 2, by omega, failed_byte_run 0 hb hr hrun⟩
  | succ more ih =>
    have hi : s.i.toNat < s.len.toNat := by omega
    have hl : ¬ s.lastByte = true := by
      rw [lastByte_iff]
      omega
    obtain ⟨k, hk, hrun⟩ := writeByte_run hi
    obtain ⟨t, r, hb, hti, htlen, -, -⟩ := writeByte_frame hi
    rw [if_neg hl] at hk
    rw [hb] at hrun
    by_cases hr : r = .ok
    · subst hr
      have htm : (t.goto .wPoll).moreBytes = true := by
        rw [moreBytes_iff, goto_i, goto_len, hti, htlen]
        omega
      have hnext : (t.i + 1).toNat = s.i.toNat + 1 := by
        rw [hti]
        exact i_succ hi
      rw [waitReturns_more htm] at hrun
      obtain ⟨k', hk', hrun'⟩ := ih (s := { t with i := t.i + 1 }) (by rw [hnext, htlen]; omega)
      refine ⟨k + k', by omega, ?_⟩
      rw [run_add k' hrun, writeLoop_more hb]
      exact hrun'
    · exact ⟨k + 2, by omega, failed_byte_run (more + 1) hb hr hrun⟩

/-! ### The set-up -/

/-- Where the byte loop begins: after MMR, IADR, MSEN and START (R130 steps 1 and 2). -/
def State.writeStarted (s : State) : State :=
  { (((s.regWrite s.c .mmr (mmrWord s.sadr s.iasz 0)).regWrite s.c .iadr (iadrWord s.iaddr)).regWrite s.c
      .cr crMsenWord).regWrite s.c .cr crStartWord with i := 0 }

theorem writeWhole_eq (s : State) : writeWhole s = writeLoop (s.len.toNat - 1) s.writeStarted := by
  simp [writeWhole, State.writeStarted]

theorem writeStarted_frame (s : State) : s.writeStarted.i.toNat = 0 ∧ s.writeStarted.len = s.len ∧
    s.writeStarted.port = s.port ∧ s.writeStarted.buffer = s.buffer := by
  simp [State.writeStarted]

/-- The four set-up rows (R131, R132). -/
theorem writeSetUp_run (hrd : s.rd = 0) :
    Host.Core.run core 4 (s.goto .wMmr) = .next (s.writeStarted.goto .wBuf) := by
  rw [run_next 3 (step_wMmr rfl), run_next 2 (step_wIadr rfl), run_next 1 (step_wMsen rfl), run_one,
    step_wStart rfl]
  simp only [regWrite_goto, goto_goto, goto_c, goto_sadr, goto_iasz, goto_iaddr, goto_rd, regWrite_c,
    regWrite_iaddr, hrd, State.writeStarted]
  rfl

/-! ### The whole write -/

/-- The acceptance of an admitted write (O29), as a step. -/
theorem step_acceptWrite {cmd : PortCommand} {rest : List PortCommand} {handle iasz : BitVec 2}
    {sadr : BitVec 10} {len : BitVec 16} {iaddr : BitVec 24} (h : s.phase = .idle)
    (hp : s.port = cmd :: rest) (hd : decodeCommand cmd.word = .ok (.masterWrite handle iasz sadr len iaddr))
    (hh : handle = 1 ∨ handle = 2) (hl : len ≠ 0)
    (hs : (s.slot (channelOfHandle handle)).initDone = true) :
    step s = .next (((s.accept cmd rest).latchTransaction 2 handle iasz sadr len iaddr).goto .wMmr) :=
  (step_decoded h hp hd).trans (writeAccepted handle iasz sadr len iaddr (s.accept cmd rest) h hh hl hs)

/-- Settles O35: the acceptance, the four set-up rows, then the byte loop by induction on the bytes that follow
(`writeLoop_run`), each byte's wait being the pseudocode's (O27). -/
theorem writeRefinesPseudocode : Obligations.WriteRefinesPseudocode := by
  intro s cmd rest handle iasz sadr len iaddr h hp hd hh hl hs
  obtain ⟨u, hu⟩ : ∃ u, u = (s.accept cmd rest).latchTransaction 2 handle iasz sadr len iaddr := ⟨_, rfl⟩
  have hstep := step_acceptWrite h hp hd hh hl hs
  rw [← hu] at hstep ⊢
  have hrd : u.rd = 0 := by rw [hu]; rfl
  have hulen : u.len = len := by rw [hu]; rfl
  have hpos : 0 < len.toNat := by bv_omega
  obtain ⟨hui, hulen', -, -⟩ := writeStarted_frame u
  have hbytes : u.writeStarted.i.toNat + (len.toNat - 1) + 1 = u.writeStarted.len.toNat := by
    rw [hui, hulen', hulen]
    omega
  obtain ⟨k, hk, hrun⟩ := writeLoop_run (len.toNat - 1) hbytes
  refine ⟨4 + k + 1, ?_, ?_⟩
  · rw [Config.pollMax]
    omega
  · rw [run_next _ hstep, run_add k (writeSetUp_run hrd), hrun, writeWhole_eq, hulen]

end Sys2Proof.Machine
end

section
/-! PROOFS. What a write hands to THR (42_master_write.md R133, R136), read off the pseudocode it runs to (O35). -/

namespace Sys2Proof.Machine

variable {s t u : State} {tr es : List Event} {bytes sent sent' : List Byte}

/-! ### The words of THR in a trace -/

theorem thrWords_cons (e : Event) (es : List Event) : thrWords (e :: es) = thrWords [e] ++ thrWords es := by
  cases e with
  | regWrite c r v => cases r <;> rfl
  | _ => rfl

theorem thrWords_append (es es' : List Event) : thrWords (es ++ es') = thrWords es ++ thrWords es' := by
  induction es with
  | nil => rfl
  | cons e es ih => rw [List.cons_append, thrWords_cons, ih, thrWords_cons e es, List.append_assoc]

/-- A wait hands nothing to THR. -/
theorem thrWords_of_wait (h : ∀ e ∈ es, Event.ofWait e = true) : thrWords es = [] := by
  induction es with
  | nil => rfl
  | cons e es ih =>
    obtain ⟨he, hes⟩ := List.forall_mem_cons.1 h
    have hhead : thrWords [e] = [] := by
      cases e with
      | regWrite c r v => cases he
      | _ => rfl
    rw [thrWords_cons, hhead, ih hes, List.append_nil]

/-! ### The bytes sent since an event -/

/-- The trace goes on from `tr`, and the bytes handed to THR since then are `sent`. -/
def State.Sent (s : State) (tr : List Event) (sent : List Byte) : Prop :=
  ∃ es, s.trace = tr ++ es ∧ thrWords es = sent.map thrWord

theorem State.Sent.append (h : s.Sent tr sent) (ht : t.trace = s.trace ++ es)
    (hes : thrWords es = sent'.map thrWord) : t.Sent tr (sent ++ sent') := by
  obtain ⟨es₀, hs, hes₀⟩ := h
  exact ⟨es₀ ++ es, by rw [ht, hs, List.append_assoc], by rw [thrWords_append, hes₀, hes, List.map_append]⟩

theorem State.Sent.waited (h : s.Sent tr sent) (hw : s.Waited t) : t.Sent tr sent := by
  obtain ⟨_, _, _, es, hes, rfl⟩ := hw
  have hsent := h.append (sent' := []) (t := { s with trace := s.trace ++ es }) rfl (thrWords_of_wait hes)
  rw [List.append_nil] at hsent
  exact hsent

theorem byteHanded_sent (h : s.Sent tr sent) :
    s.byteHanded.Sent tr (sent ++ [s.bufByte s.i.toNat]) := by
  unfold State.byteHanded State.byteOut State.byteRead
  split
  · exact h.append (es := [.bufRead s.i.toNat (s.bufByte s.i.toNat),
      .regWrite s.c .thr (thrWord (s.bufByte s.i.toNat)), .regWrite s.c .cr crStopWord]) (by simp) rfl
  · exact h.append (es := [.bufRead s.i.toNat (s.bufByte s.i.toNat),
      .regWrite s.c .thr (thrWord (s.bufByte s.i.toNat))]) (by simp) rfl

theorem bufByte_of_read {k : Nat} {x : Byte} (h : s.buffer.read k = some x) : s.bufByte k = x := by
  rw [State.bufByte, h]

/-- An iteration sends the next byte of the lent buffer. -/
theorem writeByte_sent (hi : s.i.toNat < s.len.toNat) (hlen : bytes.length = s.len.toNat)
    (hlent : ∀ k, s.buffer.read k = bytes[k]?) (h : s.Sent tr (bytes.take s.i.toNat)) :
    s.writeByte.1.Sent tr (bytes.take (s.i.toNat + 1)) := by
  have hk : s.i.toNat < bytes.length := by omega
  have hbyte : s.bufByte s.i.toNat = bytes[s.i.toNat] :=
    bufByte_of_read ((hlent _).trans (List.getElem?_eq_getElem hk))
  have hsent := byteHanded_sent h
  rw [hbyte, List.take_append_getElem hk] at hsent
  rw [writeByte_eq hi]
  exact hsent.waited (waitWhole_waited .txrdy s.byteHanded)

/-! ### How a write ends -/

/-- `t` is where a write begun in `s` ends: idle, with the response the last event; all the bytes went to THR, or on
a fault those up to `i` (R135, R136). -/
structure WriteEnds (tr : List Event) (bytes : List Byte) (s t : State) : Prop where
  phase : t.phase = .idle
  port : t.port = s.port
  buffer : t.buffer = s.buffer
  sent : ∃ es w, t.trace = tr ++ es ++ [.rsp w] ∧
    (w = countWord s.len ∧ thrWords es = bytes.map thrWord ∨
      (w = Config.eNoAck ∨ w = Config.eTimeout) ∧ t.i.toNat < s.len.toNat ∧
        thrWords es = (bytes.take (t.i.toNat + 1)).map thrWord)

theorem WriteEnds.congr (h : WriteEnds tr bytes s u) (hlen : s.len = t.len) (hport : s.port = t.port)
    (hbuffer : s.buffer = t.buffer) : WriteEnds tr bytes t u :=
  ⟨h.phase, h.port.trans hport, h.buffer.trans hbuffer, hlen ▸ h.sent⟩

theorem failWith_frame (s : State) (code : Word) : (s.failWith code).phase = .idle ∧
    (s.failWith code).port = s.port ∧ (s.failWith code).buffer = s.buffer ∧ (s.failWith code).i = s.i ∧
    (s.failWith code).trace = s.trace ++ [.regWrite s.c .cr crStopWord, .rsp code] := by
  simp [State.failWith]

/-- A fault sends no further byte (R136). -/
theorem failWith_writeEnds {code : Word} (hcode : code = Config.eNoAck ∨ code = Config.eTimeout)
    (hi : s.i.toNat < s.len.toNat) (h : s.Sent tr (bytes.take (s.i.toNat + 1))) :
    WriteEnds tr bytes s (s.failWith code) := by
  obtain ⟨hphase, hport, hbuffer, hfi, htrace⟩ := failWith_frame s code
  obtain ⟨es, hs, hes⟩ := h
  refine ⟨hphase, hport, hbuffer, es ++ [.regWrite s.c .cr crStopWord], code, ?_, .inr ⟨hcode, ?_, ?_⟩⟩
  · rw [htrace, hs]
    simp
  · rw [hfi]
    exact hi
  · rw [hfi, thrWords_append, hes]
    exact List.append_nil _

/-- After the last byte the response is the count (R135). -/
theorem respond_writeEnds (h : s.Sent tr bytes) :
    WriteEnds tr bytes s { s with result := countWord s.len }.respond := by
  obtain ⟨es, hs, hes⟩ := h
  exact ⟨rfl, rfl, rfl, es, countWord s.len, by simp [hs], .inl ⟨rfl, hes⟩⟩

/-- A byte whose wait has failed ends the write, whatever bytes are left. -/
theorem failed_byte_writeEnds {r : WaitResult} (more : Nat) (hb : s.writeByte = (t, r)) (hr : r ≠ .ok)
    (hi : t.i.toNat < t.len.toNat) (h : t.Sent tr (bytes.take (t.i.toNat + 1))) :
    WriteEnds tr bytes t (writeLoop more s) := by
  cases r with
  | ok => exact absurd rfl hr
  | noAck =>
    rw [writeLoop_noAck hb]
    exact failWith_writeEnds (.inl rfl) hi h
  | timeout =>
    rw [writeLoop_timeout hb]
    exact failWith_writeEnds (.inr rfl) hi h

/-- The byte loop sends the lent buffer in order from `i` on. -/
theorem writeLoop_writeEnds (more : Nat) (hmore : s.i.toNat + more + 1 = s.len.toNat)
    (hlen : bytes.length = s.len.toNat) (hlent : ∀ k, s.buffer.read k = bytes[k]?)
    (h : s.Sent tr (bytes.take s.i.toNat)) : WriteEnds tr bytes s (writeLoop more s) := by
  induction more generalizing s with
  | zero =>
    have hi : s.i.toNat < s.len.toNat := by omega
    have hsent := writeByte_sent hi hlen hlent h
    obtain ⟨t, r, hb, hti, htlen, htport, htbuffer⟩ := writeByte_frame hi
    rw [hb] at hsent
    refine WriteEnds.congr (s := t) ?_ htlen htport htbuffer
    by_cases hr : r = .ok
    · subst hr
      rw [List.take_of_length_le (by omega)] at hsent
      rw [writeLoop_last hb]
      exact respond_writeEnds hsent
    · exact failed_byte_writeEnds 0 hb hr (by rw [hti, htlen]; exact hi) (by rw [hti]; exact hsent)
  | succ more ih =>
    have hi : s.i.toNat < s.len.toNat := by omega
    have hsent := writeByte_sent hi hlen hlent h
    obtain ⟨t, r, hb, hti, htlen, htport, htbuffer⟩ := writeByte_frame hi
    rw [hb] at hsent
    refine WriteEnds.congr (s := t) ?_ htlen htport htbuffer
    by_cases hr : r = .ok
    · subst hr
      have hnext : (t.i + 1).toNat = s.i.toNat + 1 := by
        rw [hti]
        exact i_succ hi
      rw [writeLoop_more hb]
      have hends : WriteEnds tr bytes { t with i := t.i + 1 } (writeLoop more { t with i := t.i + 1 }) :=
        ih (by rw [hnext, htlen]; omega) (by rw [hlen, htlen])
          (fun k => by rw [← hlent k, ← htbuffer]) (by rw [hnext]; exact hsent)
      exact hends.congr rfl rfl rfl
    · exact failed_byte_writeEnds (more + 1) hb hr (by rw [hti, htlen]; exact hi) (by rw [hti]; exact hsent)

/-! ### The whole write -/

/-- The set-up hands nothing to THR: the first byte is the first thing sent (R133). -/
theorem writeStarted_sent (s : State) : s.writeStarted.Sent s.trace [] := by
  refine ⟨[.regWrite s.c .mmr (mmrWord s.sadr s.iasz 0), .regWrite s.c .iadr (iadrWord s.iaddr),
    .regWrite s.c .cr crMsenWord, .regWrite s.c .cr crStartWord], ?_, rfl⟩
  simp [State.writeStarted]

theorem writeWhole_writeEnds (hpos : 0 < s.len.toNat) (hlen : bytes.length = s.len.toNat)
    (hlent : ∀ k, s.buffer.read k = bytes[k]?) : WriteEnds s.trace bytes s (writeWhole s) := by
  obtain ⟨hui, hulen, huport, hubuffer⟩ := writeStarted_frame s
  rw [writeWhole_eq]
  refine WriteEnds.congr (writeLoop_writeEnds _ ?_ ?_ ?_ ?_) hulen huport hubuffer
  · rw [hui, hulen]
    omega
  · rw [hulen, hlen]
  · rw [hubuffer]
    exact hlent
  · rw [hui]
    exact writeStarted_sent s

/-- Settles O37: the run ends where the pseudocode does (O35), and its byte loop hands the lent buffer to THR byte by
byte (`writeLoop_writeEnds`). -/
theorem writeSendsBufferInOrder : Obligations.WriteSendsBufferInOrder := by
  intro s cmd rest handle iasz sadr len iaddr bytes h hp hd hh hl hs hlen hlent
  obtain ⟨k, -, hrun⟩ := writeRefinesPseudocode s cmd rest handle iasz sadr len iaddr h hp hd hh hl hs
  obtain ⟨u, hu⟩ : ∃ u, u = (s.accept cmd rest).latchTransaction 2 handle iasz sadr len iaddr := ⟨_, rfl⟩
  rw [← hu] at hrun
  have hulen : u.len = len := by rw [hu]; rfl
  have huport : u.port = rest := by rw [hu]; rfl
  have hutrace : u.trace = s.trace ++ [.cmd cmd.word] := by rw [hu]; rfl
  have hubuffer : u.buffer = cmd.lent := by
    have ho : field cmd.word 0 2 ≠ 1 := by simp [opcode_of_masterWrite hd]
    rw [hu]
    exact (accept_buffer hd rest).trans (if_neg ho)
  have hpos : 0 < len.toNat := by bv_omega
  obtain ⟨hphase, hport, hbuffer, es, w, htrace, hsent⟩ := writeWhole_writeEnds (s := u) (bytes := bytes)
    (by rw [hulen]; exact hpos) (by rw [hulen, hlen]) (by rw [hubuffer]; exact hlent)
  rw [hutrace] at htrace
  rw [hulen] at hsent
  refine ⟨k, writeWhole u, es, w, hrun, hphase, hport.trans huport, by rw [htrace]; simp,
    hbuffer.trans hubuffer, hsent.imp_right fun ⟨hw, hi, hthr⟩ => ⟨hw, hi, ?_, hthr⟩⟩
  rw [hthr, List.length_map, List.length_take]
  omega

end Sys2Proof.Machine
end

section
/-! PROOFS. One event of a read (43_master_read.md R140 to R148): in a phase of its own the command is the step of
that phase. -/

namespace Sys2Proof.Machine

/-- Settles O41: both are the poll row in the poll phase and the delay row in the delay phase. -/
theorem readCallsWaitFor : Obligations.ReadCallsWaitFor := by
  intro handle iasz sadr len iaddr s h
  rcases h with h | h
  · rw [exec_masterRead_own _ _ _ _ _ (.inl (by rw [h]; rfl)), step_rPoll h]
    exact (exec_waitFor_poll h).symm
  · rw [exec_masterRead_own _ _ _ _ _ (.inl (by rw [h]; rfl)), step_rDelay h]
    exact (exec_waitFor_delay h).symm

/-- Settles O39, by the row of each of the three set-up phases. -/
theorem readSetUp : Obligations.ReadSetUp := by
  refine fun handle iasz sadr len iaddr s => ⟨fun h => ?_, fun h => ?_, fun h => ?_⟩
  all_goals rw [exec_masterRead_own _ _ _ _ _ (.inl (by rw [h]; rfl))]
  · rw [step_rMmr h]
    exact ⟨_, rfl, rfl, by simp [RegBlock.write], by simp⟩
  · rw [step_rIadr h]
    exact ⟨_, rfl, rfl, by simp [RegBlock.write, iadrWord], by simp [iadrWord]⟩
  · rw [step_rStart h, regWrite_cr]
    rfl

/-! ### Storing the byte in hand, by what follows it (R25 rows `R_BUF`) -/

theorem step_rBuf_more {s : State} (h : s.phase = .rBuf) (hm : s.moreBytes = true) :
    step s = .next ({ s.bufWrite s.i.toNat s.b with i := s.i + 1 }.enterWait .rxrdy) :=
  (step_rBuf h).trans (if_pos hm)

theorem step_rBuf_last {s : State} (h : s.phase = .rBuf) (hl : s.lastByte = true) :
    step s = if s.len = 1 then .next ({ s.bufWrite s.i.toNat s.b with result := 1 }.goto .rsp)
      else .next ((s.bufWrite s.i.toNat s.b).goto .rLstop) := by
  have hm : ¬ s.moreBytes = true := by
    rw [lastByte_iff] at hl
    rw [moreBytes_iff]
    omega
  exact ((step_rBuf h).trans (if_neg hm)).trans (if_pos hl)

/-- Settles O40, by the rows of the three phases; storing the byte turns on whether it is the last, and then on
whether it is the only one. -/
theorem readByte : Obligations.ReadByte := by
  refine fun handle iasz sadr len iaddr s => ⟨fun h => ?_, fun h hi => ?_, fun h => ?_⟩
  all_goals rw [exec_masterRead_own _ _ _ _ _ (.inl (by rw [h]; rfl))]
  · exact ⟨_, step_rRhr h, rfl, rfl, rfl, rfl⟩
  · have hstored : (s.bufWrite s.i.toNat s.b).buffer.read s.i.toNat = some s.b :=
      Memory.read_write_self _ _ _
    rcases lastByte_or_moreBytes hi with hl | hm
    · have hlast : ¬ s.i.toNat + 1 < s.len.toNat := ((lastByte_iff s).1 hl).not_lt
      rw [step_rBuf_last h hl]
      by_cases hone : s.len = 1
      · rw [if_pos hone]
        exact ⟨_, rfl, hstored, rfl, by rw [if_neg hlast, if_pos hone]; exact ⟨rfl, rfl⟩⟩
      · rw [if_neg hone]
        exact ⟨_, rfl, hstored, rfl, by rw [if_neg hlast, if_neg hone]; rfl⟩
    · rw [step_rBuf_more h hm]
      exact ⟨_, rfl, hstored, rfl, by rw [if_pos ((moreBytes_iff s).1 hm)]; exact ⟨rfl, rfl, i_succ hi⟩⟩
  · rw [step_rLstop h, regWrite_cr]
    rfl

end Sys2Proof.Machine
end

section
/-! PROOFS. A read run whole (43_master_read.md R140, 10_state.md R25): its rows are the pseudocode, byte by
byte. -/

namespace Sys2Proof.Machine

variable {s t : State} {more : Nat}

/-! ### The loop, by what its byte's wait returns -/

/-- The end of a successful read: the last byte is stored, STOP is written again after more than one byte, and the
count is the response (R145, R147). -/
def State.readLast (s : State) : State :=
  { (if 1 < s.len.toNat then s.readByte.regWrite s.c .cr crStopWord else s.readByte) with
    result := countWord s.len }.respond

theorem readLoop_last (h : waitWhole .rxrdy s = (t, .ok)) : readLoop 0 s = t.readLast := by
  have hlen : t.readByte.len = t.len := rfl
  have hc : t.readByte.c = t.c := rfl
  rw [readLoop, h, State.readLast]
  dsimp only
  rw [hlen, hc]
  split
  · rw [regWrite_len, hlen]
  · rw [hlen]

theorem readLoop_more (h : waitWhole .rxrdy s = (t, .ok)) :
    readLoop (more + 1) s = readLoop more { t.readByte with i := t.i + 1 } := by
  rw [readLoop, h]
  rfl

/-- A wait that fails raises its fault, and the pseudocode ends with the same one, whatever bytes are left
(R146, R171). -/
theorem readLoop_failed {r : WaitResult} (more : Nat) (h : waitWhole .rxrdy s = (t, r)) (hr : r ≠ .ok) :
    ∃ code, (code = Config.eNoAck ∨ code = Config.eTimeout) ∧ readLoop more s = t.failWith code ∧
      ∀ u : State, u.waitReturns .rxrdy r = .next (u.raiseFault .rxrdy code) := by
  cases r with
  | ok => exact absurd rfl hr
  | noAck => exact ⟨_, .inl rfl, by cases more <;> rw [readLoop, h], fun _ => rfl⟩
  | timeout => exact ⟨_, .inr rfl, by cases more <;> rw [readLoop, h], fun _ => rfl⟩

/-! ### The rows of one byte -/

/-- The received byte in hand (R144). -/
def State.byteReceived (s : State) : State := { s.readRhr s.c with b := rhrByte s.rhrAnswer }

theorem step_receiveByte (s : State) : step (s.goto .rRhr) = .next (s.byteReceived.goto .rBuf) :=
  step_rRhr rfl

/-- A byte that is not the last: its two rows, and the next wait is called. -/
theorem readByte_run_more (hm : s.moreBytes = true) :
    Host.Core.run core 2 (s.goto .rRhr) = .next ({ s.readByte with i := s.i + 1 }.enterWait .rxrdy) := by
  rw [run_next 1 (step_receiveByte s), run_one, step_rBuf_more (s := s.byteReceived.goto .rBuf) rfl hm]
  rfl

/-- The only byte: its two rows and the response (R147). -/
theorem readByte_run_only (hl : s.lastByte = true) (hone : s.len = 1) :
    Host.Core.run core 3 (s.goto .rRhr) = .next s.readLast := by
  have hlast : step (s.byteReceived.goto .rBuf) = .next ({ s.readByte with result := 1 }.goto .rsp) :=
    (step_rBuf_last (s := s.byteReceived.goto .rBuf) rfl hl).trans (if_pos hone)
  have hnone : ¬ 1 < s.len.toNat := by simp [hone]
  rw [run_next 2 (step_receiveByte s), run_next 1 hlast, run_one, step_rsp rfl, State.readLast, if_neg hnone,
    hone]
  rfl

/-- The last byte of several: its two rows, the second STOP and the response (R145). -/
theorem readByte_run_last (hl : s.lastByte = true) (hseveral : 1 < s.len.toNat) :
    Host.Core.run core 4 (s.goto .rRhr) = .next s.readLast := by
  have hone : ¬ s.len = 1 := by bv_omega
  have hlast : step (s.byteReceived.goto .rBuf) = .next (s.readByte.goto .rLstop) :=
    (step_rBuf_last (s := s.byteReceived.goto .rBuf) rfl hl).trans (if_neg hone)
  rw [run_next 3 (step_receiveByte s), run_next 2 hlast, run_next 1 (step_rLstop rfl), run_one, step_rsp rfl,
    State.readLast, if_pos hseveral, regWrite_cr, regWrite_cr]
  rfl

theorem readLast_run (hl : s.lastByte = true) :
    ∃ k, k ≤ 4 ∧ Host.Core.run core k (s.goto .rRhr) = .next s.readLast := by
  by_cases hseveral : 1 < s.len.toNat
  · exact ⟨4, le_rfl, readByte_run_last hl hseveral⟩
  · rw [lastByte_iff] at hl
    have hone : s.len = 1 := by bv_omega
    exact ⟨3, by omega, readByte_run_only ((lastByte_iff s).2 hl) hone⟩

/-! ### The loop -/

theorem State.Waited.frame (h : s.Waited t) : t.i = s.i ∧ t.len = s.len ∧ t.port = s.port := by
  obtain ⟨_, _, _, _, -, rfl⟩ := h
  exact ⟨rfl, rfl, rfl⟩

/-- A read's wait and what it returns, as the pseudocode has it and as the rows run it. -/
theorem readWait_run (s : State) : ∃ t r k, waitWhole .rxrdy s = (t, r) ∧ s.Waited t ∧ k ≤ 199 ∧
    Host.Core.run core k (s.enterWait .rxrdy) = (t.goto .rPoll).waitReturns .rxrdy r := by
  obtain ⟨k, hk, hrun⟩ := enterWait_run .rxrdy s
  exact ⟨_, _, k, rfl, waitWhole_waited .rxrdy s, hk, hrun⟩

/-- With `more` bytes after this one the rows do what the byte loop of the pseudocode says, in 201 steps a byte and
two more: the second STOP and the response. -/
theorem readLoop_run (more : Nat) (hlen : s.i.toNat + more + 1 = s.len.toNat) :
    ∃ k, k ≤ (more + 1) * 201 + 2 ∧
      Host.Core.run core k (s.enterWait .rxrdy) = .next (readLoop more s) := by
  induction more generalizing s with
  | zero =>
    obtain ⟨t, r, k, hw, hwaited, hk, hrun⟩ := readWait_run s
    obtain ⟨hti, htlen, -⟩ := hwaited.frame
    by_cases hr : r = .ok
    · subst hr
      have hl : t.lastByte = true := by
        rw [lastByte_iff, hti, htlen]
        exact hlen
      obtain ⟨k', hk', hrun'⟩ := readLast_run hl
      refine ⟨k + k', by omega, ?_⟩
      rw [run_add k' hrun, readLoop_last hw]
      exact hrun'
    · obtain ⟨code, -, hloop, hreturn⟩ := readLoop_failed 0 hw hr
      exact ⟨k + 2, by omega, by rw [run_add 2 (hrun.trans (hreturn _)), hloop]; exact raiseFault_run _ t code⟩
  | succ more ih =>
    obtain ⟨t, r, k, hw, hwaited, hk, hrun⟩ := readWait_run s
    obtain ⟨hti, htlen, -⟩ := hwaited.frame
    by_cases hr : r = .ok
    · subst hr
      have hm : t.moreBytes = true := by
        rw [moreBytes_iff, hti, htlen]
        omega
      have hnext : (t.i + 1).toNat = s.i.toNat + 1 := by
        rw [hti]
        exact i_succ (by omega)
      obtain ⟨k', hk', hrun'⟩ := ih (s := { t.readByte with i := t.i + 1 }) (by
        have htlen' : t.readByte.len = s.len := htlen
        rw [hnext, htlen']
        omega)
      refine ⟨k + (2 + k'), by omega, ?_⟩
      rw [run_add _ hrun, readLoop_more hw, ← hrun']
      exact run_add k' (readByte_run_more hm)
    · obtain ⟨code, -, hloop, hreturn⟩ := readLoop_failed (more + 1) hw hr
      exact ⟨k + 2, by omega, by rw [run_add 2 (hrun.trans (hreturn _)), hloop]; exact raiseFault_run _ t code⟩

/-! ### The set-up -/

/-- Where the byte loop begins: after MMR, IADR and the one write of CR (R141, R143). -/
def State.readStarted (s : State) : State :=
  { ((s.regWrite s.c .mmr (mmrWord s.sadr s.iasz 1)).regWrite s.c .iadr (iadrWord s.iaddr)).regWrite s.c .cr
      (if s.len = 1 then crStartWord else crStartStopWord) with i := 0 }

theorem readWhole_eq (s : State) : readWhole s = readLoop (s.len.toNat - 1) s.readStarted := by
  simp [readWhole, State.readStarted]

theorem readStarted_frame (s : State) : s.readStarted.i.toNat = 0 ∧ s.readStarted.len = s.len ∧
    s.readStarted.port = s.port ∧ s.readStarted.buffer = s.buffer := by
  simp [State.readStarted]

/-- The three set-up rows. -/
theorem readSetUp_run (hrd : s.rd = 1) :
    Host.Core.run core 3 (s.goto .rMmr) = .next (s.readStarted.enterWait .rxrdy) := by
  rw [run_next 2 (step_rMmr rfl), run_next 1 (step_rIadr rfl), run_one, step_rStart rfl]
  simp only [regWrite_goto, goto_goto, goto_c, goto_sadr, goto_iasz, goto_iaddr, goto_len, goto_rd, regWrite_c,
    regWrite_iaddr, regWrite_len, hrd, State.readStarted]
  rfl

/-! ### The whole read -/

/-- The acceptance of an admitted read (O38), as a step. -/
theorem step_acceptRead {cmd : PortCommand} {rest : List PortCommand} {handle iasz : BitVec 2}
    {sadr : BitVec 10} {len : BitVec 16} {iaddr : BitVec 24} (h : s.phase = .idle)
    (hp : s.port = cmd :: rest) (hd : decodeCommand cmd.word = .ok (.masterRead handle iasz sadr len iaddr))
    (hh : handle = 1 ∨ handle = 2) (hl : len ≠ 0)
    (hs : (s.slot (channelOfHandle handle)).initDone = true) :
    step s = .next (((s.accept cmd rest).latchTransaction 3 handle iasz sadr len iaddr).goto .rMmr) :=
  (step_decoded h hp hd).trans (readAccepted handle iasz sadr len iaddr (s.accept cmd rest) h hh hl hs)

/-- Settles O43: the acceptance, the three set-up rows, then the byte loop by induction on the bytes that follow
(`readLoop_run`), each byte's wait being the pseudocode's (O27). -/
theorem readRefinesPseudocode : Obligations.ReadRefinesPseudocode := by
  intro s cmd rest handle iasz sadr len iaddr h hp hd hh hl hs
  obtain ⟨u, hu⟩ : ∃ u, u = (s.accept cmd rest).latchTransaction 3 handle iasz sadr len iaddr := ⟨_, rfl⟩
  have hstep := step_acceptRead h hp hd hh hl hs
  rw [← hu] at hstep ⊢
  have hrd : u.rd = 1 := by rw [hu]; rfl
  have hulen : u.len = len := by rw [hu]; rfl
  have hpos : 0 < len.toNat := by bv_omega
  obtain ⟨hui, hulen', -, -⟩ := readStarted_frame u
  have hbytes : u.readStarted.i.toNat + (len.toNat - 1) + 1 = u.readStarted.len.toNat := by
    rw [hui, hulen', hulen]
    omega
  obtain ⟨k, hk, hrun⟩ := readLoop_run (len.toNat - 1) hbytes
  refine ⟨3 + k + 1, ?_, ?_⟩
  · rw [Config.pollMax]
    omega
  · rw [run_next _ hstep, run_add k (readSetUp_run hrd), hrun, readWhole_eq, hulen]

end Sys2Proof.Machine
end

section
/-! PROOFS. What a read leaves in the buffer (43_master_read.md R144, R148), read off the pseudocode it runs to
(O43). -/

namespace Sys2Proof.Machine

variable {s t u : State} {tr es es' : List Event} {lent m : Memory}

/-! ### The words of RHR and the buffer writes in a trace -/

/-- The word an event read from RHR. -/
def Event.rhrWord? : Event → Option Word
  | .regRead _ .rhr v => some v
  | _ => none

/-- The index and the byte an event wrote to the buffer. -/
def Event.bufWrite? : Event → Option (Nat × Byte)
  | .bufWrite k b => some (k, b)
  | _ => none

theorem rhrWords_eq_filterMap (es : List Event) : rhrWords es = es.filterMap Event.rhrWord? := by
  induction es with
  | nil => rfl
  | cons e es ih =>
    rw [List.filterMap_cons, ← ih]
    cases e with
    | regRead c r v => cases r <;> rfl
    | _ => rfl

theorem bufWrites_eq_filterMap (es : List Event) : bufWrites es = es.filterMap Event.bufWrite? := by
  induction es with
  | nil => rfl
  | cons e es ih =>
    rw [List.filterMap_cons, ← ih]
    cases e <;> rfl

@[simp] theorem rhrWords_append (es es' : List Event) : rhrWords (es ++ es') = rhrWords es ++ rhrWords es' := by
  simp only [rhrWords_eq_filterMap, List.filterMap_append]

@[simp] theorem bufWrites_append (es es' : List Event) :
    bufWrites (es ++ es') = bufWrites es ++ bufWrites es' := by
  simp only [bufWrites_eq_filterMap, List.filterMap_append]

/-- A wait reads no RHR and stores nothing. -/
theorem rhrWords_bufWrites_of_wait (h : ∀ e ∈ es, Event.ofWait e = true) :
    rhrWords es = [] ∧ bufWrites es = [] := by
  rw [rhrWords_eq_filterMap, bufWrites_eq_filterMap, List.filterMap_eq_nil_iff, List.filterMap_eq_nil_iff]
  refine ⟨fun e he => ?_, fun e he => ?_⟩
  · have hwait := h e he
    cases e with
    | regRead c r v => cases r with
      | rhr => cases hwait
      | _ => rfl
    | _ => rfl
  · have hwait := h e he
    cases e with
    | bufWrite k b => cases hwait
    | _ => rfl

/-! ### The buffer after these events -/

/-- During the events `es` the low bytes of RHR's answers went to the indices from 0 up, in order, and `m` is what
that makes of the memory `lent` (R148). -/
structure Filled (lent : Memory) (es : List Event) (m : Memory) : Prop where
  writes : bufWrites es = ((rhrWords es).map rhrByte).mapIdx fun j x => (j, x)
  contents : ∀ j, m.read j = ((rhrWords es).map rhrByte)[j]?.or (lent.read j)

theorem Filled.of_nil (hrhr : rhrWords es = []) (hbuf : bufWrites es = []) : Filled lent es lent :=
  ⟨by simp [hrhr, hbuf], by simp [hrhr]⟩

/-- Events that neither read RHR nor store a byte change nothing. -/
theorem Filled.append (h : Filled lent es m) (hrhr : rhrWords es' = []) (hbuf : bufWrites es' = []) :
    Filled lent (es ++ es') m := by
  constructor
  · simpa [hrhr, hbuf] using h.writes
  · simpa [hrhr] using h.contents

/-- The next answer's low byte goes to the next index. -/
theorem Filled.store (h : Filled lent es m) (c : Channel) (v : Word) :
    Filled lent (es ++ [.regRead c .rhr v, .bufWrite (rhrWords es).length (rhrByte v)])
      (m.write (rhrWords es).length (rhrByte v)) := by
  have hrhr : rhrWords [.regRead c .rhr v, .bufWrite (rhrWords es).length (rhrByte v)] = [v] := rfl
  have hbuf : bufWrites [.regRead c .rhr v, .bufWrite (rhrWords es).length (rhrByte v)] =
      [((rhrWords es).length, rhrByte v)] := rfl
  constructor
  · simp [hrhr, hbuf, h.writes]
  · intro j
    rw [rhrWords_append, hrhr, List.map_append, List.getElem?_append]
    rcases lt_trichotomy j (rhrWords es).length with hj | rfl | hj
    · rw [Memory.read_write_ne _ _ hj.ne, h.contents, if_pos (by rwa [List.length_map])]
    · simp
    · rw [Memory.read_write_ne _ _ hj.ne', h.contents, if_neg (by rw [List.length_map]; omega)]
      simp [hj.le, Nat.sub_ne_zero_of_lt hj]

/-! ### The bytes received since an event -/

/-- The trace goes on from `tr`, and since then `k` bytes have gone to the buffer, which held `lent`. -/
def State.Received (s : State) (tr : List Event) (lent : Memory) (k : Nat) : Prop :=
  ∃ es, s.trace = tr ++ es ∧ (rhrWords es).length = k ∧ Filled lent es s.buffer

theorem State.Received.waited {k : Nat} (h : s.Received tr lent k) (hw : s.Waited t) :
    t.Received tr lent k := by
  obtain ⟨es, htr, hk, hfilled⟩ := h
  obtain ⟨_, _, _, es', hes', rfl⟩ := hw
  obtain ⟨hrhr, hbuf⟩ := rhrWords_bufWrites_of_wait hes'
  exact ⟨es ++ es', by simp [htr], by simp [hrhr, hk], hfilled.append hrhr hbuf⟩

/-- Step 3b of the pseudocode stores the byte at `i`. -/
theorem readByte_received (h : s.Received tr lent s.i.toNat) : s.readByte.Received tr lent (s.i.toNat + 1) := by
  obtain ⟨es, htr, hk, hfilled⟩ := h
  have hstore := hfilled.store s.c s.rhrAnswer
  rw [hk] at hstore
  refine ⟨_, ?_, ?_, hstore⟩
  · simp [State.readByte, htr]
  · simp [rhrWords, hk]

/-! ### How a read ends -/

/-- `t` is where a read begun in `s` ends: idle, with the response the last event; all the bytes are in the buffer,
or on a fault those below `i` (R145, R146). -/
structure ReadEnds (tr : List Event) (lent : Memory) (s t : State) : Prop where
  phase : t.phase = .idle
  port : t.port = s.port
  received : ∃ es w, t.trace = tr ++ es ++ [.rsp w] ∧ Filled lent es t.buffer ∧
    (w = countWord s.len ∧ (rhrWords es).length = s.len.toNat ∨
      (w = Config.eNoAck ∨ w = Config.eTimeout) ∧ t.i.toNat < s.len.toNat ∧
        (rhrWords es).length = t.i.toNat)

theorem ReadEnds.congr (h : ReadEnds tr lent s u) (hlen : s.len = t.len) (hport : s.port = t.port) :
    ReadEnds tr lent t u :=
  ⟨h.phase, h.port.trans hport, hlen ▸ h.received⟩

/-- A fault stores no further byte (R146). -/
theorem failWith_readEnds {code : Word} (hcode : code = Config.eNoAck ∨ code = Config.eTimeout)
    (hi : s.i.toNat < s.len.toNat) (h : s.Received tr lent s.i.toNat) :
    ReadEnds tr lent s (s.failWith code) := by
  obtain ⟨hphase, hport, hbuffer, hfi, htrace⟩ := failWith_frame s code
  obtain ⟨es, htr, hk, hfilled⟩ := h
  refine ⟨hphase, hport, es ++ [.regWrite s.c .cr crStopWord], code, ?_, ?_, .inr ⟨hcode, ?_, ?_⟩⟩
  · simp [htrace, htr]
  · rw [hbuffer]
    exact hfilled.append rfl rfl
  · rw [hfi]
    exact hi
  · rw [hfi, rhrWords_append, ← hk]
    exact congrArg List.length (List.append_nil _)

/-- After the last byte the response is the count (R145, R147). -/
theorem readLast_readEnds (hl : s.lastByte = true) (h : s.Received tr lent s.i.toNat) :
    ReadEnds tr lent s s.readLast := by
  obtain ⟨es, htr, hk, hfilled⟩ := readByte_received h
  rw [(lastByte_iff s).1 hl] at hk
  unfold State.readLast
  split
  · rw [regWrite_cr]
    exact ⟨rfl, rfl, es ++ [.regWrite s.c .cr crStopWord], countWord s.len, by simp [htr],
      hfilled.append rfl rfl, .inl ⟨rfl, by simp [rhrWords, hk]⟩⟩
  · exact ⟨rfl, rfl, es, countWord s.len, by simp [htr], hfilled, .inl ⟨rfl, hk⟩⟩

/-- The byte loop fills the buffer in order from `i` on. -/
theorem readLoop_readEnds (more : Nat) (hmore : s.i.toNat + more + 1 = s.len.toNat)
    (h : s.Received tr lent s.i.toNat) : ReadEnds tr lent s (readLoop more s) := by
  induction more generalizing s with
  | zero =>
    obtain ⟨t, r, -, hw, hwaited, -, -⟩ := readWait_run s
    obtain ⟨hti, htlen, htport⟩ := hwaited.frame
    have hreceived := h.waited hwaited
    rw [← hti] at hreceived hmore
    rw [← htlen] at hmore
    refine ReadEnds.congr (s := t) ?_ htlen htport
    by_cases hr : r = .ok
    · subst hr
      rw [readLoop_last hw]
      exact readLast_readEnds ((lastByte_iff t).2 hmore) hreceived
    · obtain ⟨code, hcode, hloop, -⟩ := readLoop_failed 0 hw hr
      rw [hloop]
      exact failWith_readEnds hcode (by omega) hreceived
  | succ more ih =>
    obtain ⟨t, r, -, hw, hwaited, -, -⟩ := readWait_run s
    obtain ⟨hti, htlen, htport⟩ := hwaited.frame
    have hreceived := h.waited hwaited
    rw [← hti] at hreceived hmore
    rw [← htlen] at hmore
    refine ReadEnds.congr (s := t) ?_ htlen htport
    by_cases hr : r = .ok
    · subst hr
      have hnext : (t.i + 1).toNat = t.i.toNat + 1 := i_succ (by omega)
      have hlen : t.readByte.len = t.len := rfl
      have hbyte := readByte_received hreceived
      rw [readLoop_more hw]
      exact (ih (s := { t.readByte with i := t.i + 1 }) (by rw [hnext, hlen]; omega)
        (by rw [hnext]; exact hbyte)).congr rfl rfl
    · obtain ⟨code, hcode, hloop, -⟩ := readLoop_failed (more + 1) hw hr
      rw [hloop]
      exact failWith_readEnds hcode (by omega) hreceived

/-! ### The whole read -/

/-- The set-up receives nothing: the first byte goes to index 0 (R148). -/
theorem readStarted_received (s : State) : s.readStarted.Received s.trace s.buffer 0 := by
  obtain ⟨-, -, -, hbuffer⟩ := readStarted_frame s
  refine ⟨[.regWrite s.c .mmr (mmrWord s.sadr s.iasz 1), .regWrite s.c .iadr (iadrWord s.iaddr),
    .regWrite s.c .cr (if s.len = 1 then crStartWord else crStartStopWord)], ?_, rfl, ?_⟩
  · simp [State.readStarted]
  · rw [hbuffer]
    exact Filled.of_nil rfl rfl

theorem readWhole_readEnds (hpos : 0 < s.len.toNat) : ReadEnds s.trace s.buffer s (readWhole s) := by
  obtain ⟨hui, hulen, huport, -⟩ := readStarted_frame s
  rw [readWhole_eq]
  refine ReadEnds.congr (readLoop_readEnds _ ?_ ?_) hulen huport
  · rw [hui, hulen]
    omega
  · rw [hui]
    exact readStarted_received s

/-- Settles O45: the run ends where the pseudocode does (O43), and its byte loop stores the low bytes of RHR's
answers one index after the other (`readLoop_readEnds`). -/
theorem readFillsBufferInOrder : Obligations.ReadFillsBufferInOrder := by
  intro s cmd rest handle iasz sadr len iaddr h hp hd hh hl hs
  obtain ⟨k, -, hrun⟩ := readRefinesPseudocode s cmd rest handle iasz sadr len iaddr h hp hd hh hl hs
  obtain ⟨u, hu⟩ : ∃ u, u = (s.accept cmd rest).latchTransaction 3 handle iasz sadr len iaddr := ⟨_, rfl⟩
  rw [← hu] at hrun
  have hulen : u.len = len := by rw [hu]; rfl
  have huport : u.port = rest := by rw [hu]; rfl
  have hutrace : u.trace = s.trace ++ [.cmd cmd.word] := by rw [hu]; rfl
  have hubuffer : u.buffer = cmd.lent := by
    have ho : field cmd.word 0 2 ≠ 1 := by simp [opcode_of_masterRead hd]
    rw [hu]
    exact (accept_buffer hd rest).trans (if_neg ho)
  have hpos : 0 < u.len.toNat := by
    rw [hulen]
    bv_omega
  obtain ⟨hphase, hport, es, w, htrace, hfilled, hends⟩ := readWhole_readEnds hpos
  rw [hutrace] at htrace
  rw [hubuffer] at hfilled
  rw [hulen] at hends
  refine ⟨k, readWhole u, es, w, hrun, hphase, hport.trans huport, by rw [htrace]; simp, hends, hfilled.writes,
    fun j => ?_⟩
  rw [hfilled.contents, List.getElem?_map]
  cases (rhrWords es)[j]? <;> rfl

end Sys2Proof.Machine
end

section
/-! PROOFS. The words of CR in a trace (44_register_commands.md R160, R161), and the four words as one event each
(R155 to R159). -/

namespace Sys2Proof.Machine

variable {es : List Event}

/-- Settles O46: a write of CR stores nothing in the block (`regWrite_cr`). -/
theorem crWordsWritten : Obligations.CrWordsWritten := by
  intro s
  exact ⟨congrArg _ (regWrite_cr s s.c crMsenWord), congrArg _ (regWrite_cr s s.c crStartWord),
    congrArg _ (regWrite_cr s s.c crStopWord), congrArg _ (regWrite_cr s s.c crStartStopWord)⟩

/-- Settles O47: `CR.MSDIS` has no other meaning than its refusal (R156, U15). -/
theorem masterDisableRefused : Obligations.MasterDisableRefused :=
  fun _ => rfl

/-- The word an event wrote to CR. -/
def Event.crWord? : Event → Option Word
  | .regWrite _ .cr v => some v
  | _ => none

theorem crWord?_eq_some {e : Event} {v : Word} : e.crWord? = some v ↔ ∃ c, e = .regWrite c .cr v := by
  cases e with
  | regWrite c r w => cases r <;> simp [Event.crWord?]
  | _ => simp [Event.crWord?]

theorem crWords_eq_filterMap (es : List Event) : crWords es = es.filterMap Event.crWord? := by
  induction es with
  | nil => rfl
  | cons e es ih =>
    rw [List.filterMap_cons, ← ih]
    cases e with
    | regWrite c r v => cases r <;> rfl
    | _ => rfl

theorem crWords_append (es es' : List Event) : crWords (es ++ es') = crWords es ++ crWords es' := by
  simp only [crWords_eq_filterMap, List.filterMap_append]

theorem mem_crWords {v : Word} : v ∈ crWords es ↔ ∃ c, Event.regWrite c .cr v ∈ es := by
  rw [crWords_eq_filterMap, List.mem_filterMap]
  constructor
  · rintro ⟨e, he, hv⟩
    obtain ⟨c, rfl⟩ := crWord?_eq_some.1 hv
    exact ⟨c, he⟩
  · rintro ⟨c, hc⟩
    exact ⟨_, hc, rfl⟩

/-- A wait writes no CR word. -/
theorem crWords_of_wait (h : ∀ e ∈ es, Event.ofWait e = true) : crWords es = [] := by
  rw [List.eq_nil_iff_forall_not_mem]
  intro v hv
  obtain ⟨c, hc⟩ := mem_crWords.1 hv
  cases h _ hc

theorem crWordLegal_iff {v : Word} : crWordLegal v = true ↔ v = 0x1 ∨ v = 0x2 ∨ v = 0x3 ∨ v = 0x4 := by
  simp only [crWordLegal, Bool.or_eq_true, decide_eq_true_eq, or_assoc]
  rfl

/-- Settles O54: the event a step adds (O13) is legal (O53), so a CR word it writes is one of the four. -/
theorem onlyFourCrWords : Obligations.OnlyFourCrWords := by
  refine ⟨rfl, fun s t hlegal hs => ?_⟩
  rcases oneEventPerPhase s t hs with ⟨-, rfl⟩ | ⟨e, he, htrace⟩
  · exact hlegal
  · rw [htrace, crWords_append, List.forall_mem_append]
    refine ⟨hlegal, fun v hv => ?_⟩
    obtain ⟨c, hc⟩ := mem_crWords.1 hv
    rw [← List.mem_singleton.1 hc] at he
    exact crWordLegal_iff.1 (nextEvent_legal he hs)

end Sys2Proof.Machine
end

section
/-! PROOFS. Every fault response stands right after a STOP (44_register_commands.md R162): the only rows into the
response with a fault's code are the forced STOPs. -/

namespace Sys2Proof.Machine

variable {s t : State}

theorem faultCode_countWord (len : BitVec 16) : faultCode (countWord len) = false := by
  simp only [faultCode, Bool.or_eq_false_iff, decide_eq_false_iff_not]
  unfold countWord Config.eNoAck Config.eTimeout
  constructor <;> bv_omega

theorem faultCode_handleWord (c : Channel) : faultCode (handleWord c) = false := by
  rcases channel_cases c with rfl | rfl <;> decide

theorem endsWithStop_concat (es : List Event) (e : Event) : endsWithStop (es ++ [e]) = isStop e := by
  simp [endsWithStop]

/-- The last event of a trace is framed by the one before it, or by `prev` where there is none. -/
theorem stopBeforeFault_concat (prev : Bool) (es : List Event) (e : Event) :
    stopBeforeFault prev (es ++ [e]) =
      (stopBeforeFault prev es && (!isFaultResponse e || (es.getLast?.map isStop).getD prev)) := by
  induction es generalizing prev with
  | nil => simp [stopBeforeFault]
  | cons a es ih =>
    have hlast : ((a :: es).getLast?.map isStop).getD prev = (es.getLast?.map isStop).getD (isStop a) := by
      rw [List.getLast?_cons]
      cases es.getLast? <;> rfl
    rw [List.cons_append, stopBeforeFault, stopBeforeFault, ih, hlast, Bool.and_assoc]

theorem stopBeforeFault_trace_concat (es : List Event) (e : Event) :
    stopBeforeFault false (es ++ [e]) =
      (stopBeforeFault false es && (!isFaultResponse e || endsWithStop es)) := by
  rw [stopBeforeFault_concat, endsWithStop]
  cases es.getLast? <;> rfl

theorem faultsFramed_iff : s.faultsFramed = true ↔ stopBeforeFault false s.trace = true ∧
    (s.phase = .rsp → faultCode s.result = true → endsWithStop s.trace = true) := by
  cases hf : faultCode s.result <;> simp [State.faultsFramed, hf, imp_iff_not_or]

/-- The only event that can report a fault is the response, with the result it stands for. -/
theorem nextEvent_faultResponse {e : Event} (he : s.nextEvent = some e) (hf : isFaultResponse e = true) :
    s.phase = .rsp ∧ faultCode s.result = true := by
  rcases h : s.phase
  case rsp =>
    simp only [State.nextEvent, h, Option.some.injEq] at he
    subst he
    exact ⟨rfl, hf⟩
  case idle =>
    obtain ⟨cmd, -, rfl⟩ : ∃ cmd, s.port.head? = some cmd ∧ Event.cmd cmd.word = e := by
      simpa [State.nextEvent, h] using he
    cases hf
  all_goals
    simp only [State.nextEvent, h, Option.some.injEq] at he
    subst he
    cases hf

/-- A row into the response leaves a result that is no fault's code, or is a STOP (R171). -/
theorem row_into_response (h : Row s t) (hp : t.phase = .rsp) :
    faultCode t.result = false ∨ endsWithStop t.trace = true := by
  cases h
  case iCwgr => exact .inl (faultCode_handleWord s.c)
  case wPollLast => exact .inl (faultCode_countWord s.len)
  case rBufOnly => exact .inl rfl
  case wFstop | rFstop | rLstop => exact .inr (by simp [endsWithStop_concat, isStop])
  case pollAgain ready _ _ _ | pollNoAck ready _ _ _ | pollTimeout ready _ _ _ | delay ready _ =>
    cases ready <;> cases hp
  all_goals cases hp

/-- So does an acceptance: it answers an `INIT` with an invalid selector with 0 (R112). -/
theorem accept_into_response {cmd : PortCommand} {rest : List PortCommand} (h : s.phase = .idle)
    (hport : s.port = cmd :: rest) (hs : step s = .next t) (hp : t.phase = .rsp) :
    faultCode t.result = false := by
  rcases accept_next h hport hs with ⟨_, _, -, -, rfl⟩ | ⟨_, _, -, -, rfl⟩ | ⟨_, _, _, _, _, -, -, rfl⟩ |
    ⟨_, _, _, _, _, -, -, rfl⟩
  · cases hp
  · rfl
  · cases hp
  · cases hp

theorem step_into_response (hs : step s = .next t) (hne : t ≠ s) (hp : t.phase = .rsp) :
    faultCode t.result = false ∨ endsWithStop t.trace = true := by
  by_cases h : s.phase = .idle
  · rcases hport : s.port with _ | ⟨cmd, rest⟩
    · rw [step_unasked h hport] at hs
      cases hs
      exact absurd rfl hne
    · exact .inl (accept_into_response h hport hs hp)
  · exact row_into_response (step_row h hs) hp

/-- Settles O55: a step adds one event (O13); a fault's response is the event of `RSP`, and whatever led there with
a fault's code was a STOP (`step_into_response`). -/
theorem failedTransactionEndsInStop : Obligations.FailedTransactionEndsInStop := by
  refine ⟨rfl, fun s t hframed hs => ?_⟩
  rcases oneEventPerPhase s t hs with ⟨-, rfl⟩ | ⟨e, he, htrace⟩
  · exact hframed
  · rw [faultsFramed_iff] at hframed ⊢
    obtain ⟨hbefore, hrsp⟩ := hframed
    constructor
    · rw [htrace, stopBeforeFault_trace_concat, hbefore]
      rcases hf : isFaultResponse e
      · rfl
      · obtain ⟨hp, hcode⟩ := nextEvent_faultResponse he hf
        simp [hrsp hp hcode]
    · intro hp hcode
      have hne : t ≠ s := by
        rintro rfl
        simp at htrace
      exact (step_into_response hs hne hp).resolve_left (by simp [hcode])

end Sys2Proof.Machine
end

section
/-! SUPPORT. What a transaction's events amount to, counted (44_register_commands.md R161), and how a wait that fails
ends it: the deciding read of SR, the forced STOP, the response (R162). -/

namespace Sys2Proof.Machine

variable {s t : State} {ready : ReadyBit} {tr es : List Event}

/-! ### Counting events -/

/-- What R161 says of a transaction: its CR words, and how many words went to THR, came from RHR and went to the
buffer. -/
structure Tally where
  cr : List Word
  thr : Nat
  rhr : Nat
  buf : Nat

variable {τ : Tally}

/-- The tally of two stretches of a trace, one after the other. -/
def Tally.add (τ υ : Tally) : Tally := ⟨τ.cr ++ υ.cr, τ.thr + υ.thr, τ.rhr + υ.rhr, τ.buf + υ.buf⟩

/-- What a stretch of a trace amounts to. -/
def tally (es : List Event) : Tally :=
  ⟨crWords es, (thrWords es).length, (rhrWords es).length, (bufWrites es).length⟩

theorem tally_append (es es' : List Event) : tally (es ++ es') = (tally es).add (tally es') := by
  simp [tally, Tally.add, crWords_append, thrWords_append]

theorem Tally.add_nil (τ : Tally) : τ.add (tally []) = τ := by
  simp [Tally.add, tally, crWords, thrWords, rhrWords, bufWrites]

theorem tally_of_wait (h : ∀ e ∈ es, Event.ofWait e = true) : tally es = tally [] := by
  obtain ⟨hrhr, hbuf⟩ := rhrWords_bufWrites_of_wait h
  rw [tally, crWords_of_wait h, thrWords_of_wait h, hrhr, hbuf]
  rfl

/-- The trace goes on from `tr`, and what happened since then amounts to `τ`. -/
def State.Tallied (s : State) (tr : List Event) (τ : Tally) : Prop :=
  ∃ es, s.trace = tr ++ es ∧ tally es = τ

theorem State.Tallied.append (h : s.Tallied tr τ) (ht : t.trace = s.trace ++ es) :
    t.Tallied tr (τ.add (tally es)) := by
  obtain ⟨es₀, hs, rfl⟩ := h
  exact ⟨es₀ ++ es, by rw [ht, hs, List.append_assoc], tally_append es₀ es⟩

theorem State.Tallied.waited (h : s.Tallied tr τ) (hw : s.Waited t) : t.Tallied tr τ := by
  obtain ⟨_, _, _, es, hes, rfl⟩ := hw
  have ht := h.append (t := { s with trace := s.trace ++ es }) rfl
  rw [tally_of_wait hes, Tally.add_nil] at ht
  exact ht

theorem waited_of_waitWhole {r : WaitResult} (hw : waitWhole ready s = (t, r)) : s.Waited t := by
  have hwaited := waitWhole_waited ready s
  rwa [hw] at hwaited

/-! ### The poll that ends a wait -/

theorem waitLoop_decision (fuel : Nat) (hfuel : s.n.toNat + (fuel + 1) = Config.pollMax) :
    ∃ u r, s.Waited u ∧ waitLoop ready (fuel + 1) s = (u.poll, r) ∧
      pollVerdict ready u.srAnswer (u.n.toNat + 1) = some r := by
  induction fuel generalizing s with
  | zero =>
    have hn : s.n.toNat < Config.pollMax := by omega
    rcases hv : pollVerdict ready s.srAnswer (s.n.toNat + 1) with _ | r
    · exact absurd hfuel (pollVerdict_none hv).2.2
    · exact ⟨s, r, .refl s, waitLoop_decided 0 hn hv, hv⟩
  | succ fuel ih =>
    have hn : s.n.toNat < Config.pollMax := by omega
    rcases hv : pollVerdict ready s.srAnswer (s.n.toNat + 1) with _ | r
    · have hpolls : s.poll.delay.n.toNat = s.n.toNat + 1 := poll_n_toNat hn
      obtain ⟨u, r, hw, hloop, hu⟩ := ih (s := s.poll.delay) (by omega)
      exact ⟨u, r, ((poll_waited s).trans (delay_waited s.poll)).trans hw,
        (waitLoop_undecided _ hn hv).trans hloop, hu⟩
    · exact ⟨s, r, .refl s, waitLoop_decided _ hn hv, hv⟩

/-- A wait ends with a poll, and returns what that poll's answer decides (R121). -/
theorem waitWhole_decision (ready : ReadyBit) (s : State) : ∃ u r, s.Waited u ∧
    waitWhole ready s = (u.poll, r) ∧ pollVerdict ready u.srAnswer (u.n.toNat + 1) = some r := by
  have hcall : s.Waited { s with n := 0 } := ⟨0, s.srAnswers, s.draws, [], by simp, by simp⟩
  obtain ⟨u, r, hw, hloop, hv⟩ := waitLoop_decision (ready := ready) (s := { s with n := 0 })
    (Config.pollMax - 1) rfl
  exact ⟨u, r, hcall.trans hw, hloop, hv⟩

/-! ### A failed wait -/

/-- The code a wait that fails is reported with (R166). -/
def WaitResult.faultWord : WaitResult → Option Word
  | .ok => none
  | .noAck => some Config.eNoAck
  | .timeout => some Config.eTimeout

theorem ok_or_faultWord (r : WaitResult) : r = .ok ∨ ∃ code, r.faultWord = some code := by
  cases r with
  | ok => exact .inl rfl
  | noAck => exact .inr ⟨_, rfl⟩
  | timeout => exact .inr ⟨_, rfl⟩

/-- The answer `v` of SR is why the response is `code`. -/
def DecidesFault (ready : ReadyBit) (v code : Word) : Prop :=
  code = Config.eNoAck ∧ nackSet v = true ∨
    code = Config.eTimeout ∧ nackSet v = false ∧ readySet ready v = false

theorem pollVerdict_decidesFault {v code : Word} {k : Nat} {r : WaitResult}
    (hv : pollVerdict ready v k = some r) (hr : r.faultWord = some code) : DecidesFault ready v code := by
  rcases pollVerdict_some hv with ⟨rfl, hnack⟩ | ⟨rfl, -, -⟩ | ⟨rfl, hnack, hready, -⟩
  · cases hr
    exact .inl ⟨rfl, hnack⟩
  · cases hr
  · cases hr
    exact .inr ⟨rfl, hnack, hready⟩

/-- `t` is where a transaction of `len` bytes begun after `tr` ends (R161, R162): its events amount to `done` and the
last is the count, or to `failed j` for a fault at byte `j` and the last three are those of R171. -/
structure Framed (ready : ReadyBit) (len : BitVec 16) (tr : List Event) (done : Tally) (failed : Nat → Tally)
    (t : State) : Prop where
  phase : t.phase = .idle
  events : ∃ es, t.trace = tr ++ es ∧
    ((∃ pre, es = pre ++ [.rsp (countWord len)] ∧ tally es = done) ∨
     (∃ pre v code j, es = pre ++ [.regRead t.c .sr v, .regWrite t.c .cr crStopWord, .rsp code] ∧
       DecidesFault ready v code ∧ j < len.toNat ∧ tally es = failed j))

section

variable {len : BitVec 16} {done : Tally} {failed : Nat → Tally}

/-- A successful transaction ends with its count. -/
theorem respond_framed (hlen : s.len = len) (h : s.Tallied tr done) :
    Framed ready len tr done failed { s with result := countWord s.len }.respond := by
  obtain ⟨es, hs, hτ⟩ := h
  refine ⟨rfl, es ++ [.rsp (countWord len)], ?_, .inl ⟨es, rfl, ?_⟩⟩
  · simp [hs, hlen]
  · rw [tally_append, hτ]
    exact Tally.add_nil done

/-- A failed wait adds one CR word, that of the forced STOP. -/
theorem failWith_framed {r : WaitResult} {code : Word} {j : Nat} (hw : waitWhole ready s = (t, r))
    (hr : r.faultWord = some code) (h : s.Tallied tr τ) (hj : j < len.toNat)
    (hτ : τ.add ⟨[crStopWord], 0, 0, 0⟩ = failed j) : Framed ready len tr done failed (t.failWith code) := by
  obtain ⟨u, r', hwaited, hwhole, hv⟩ := waitWhole_decision ready s
  obtain ⟨rfl, rfl⟩ := Prod.mk.inj (hwhole.symm.trans hw)
  obtain ⟨es, hu, rfl⟩ := h.waited hwaited
  obtain ⟨hphase, -, -, -, htrace⟩ := failWith_frame u.poll code
  have hc : (u.poll.failWith code).c = u.c := by simp [State.failWith]
  refine ⟨hphase, es ++ [.regRead u.c .sr u.srAnswer, .regWrite u.c .cr crStopWord, .rsp code], ?_,
    .inr ⟨es, u.srAnswer, code, j, by rw [hc], pollVerdict_decidesFault hv hr, hj, ?_⟩⟩
  · rw [htrace]
    simp [hu]
  · rw [tally_append]
    exact hτ

end

end Sys2Proof.Machine
end

section
/-! PROOFS. The framing of a write (44_register_commands.md R161 rows `write`, R162), read off the pseudocode it runs
to (O35). -/

namespace Sys2Proof.Machine

variable {s t : State} {tr : List Event} {len : BitVec 16}

/-- The row of R161 for a write that succeeds. -/
def writeDone (len : BitVec 16) : Tally := ⟨[crMsenWord, crStartWord, crStopWord], len.toNat, 0, 0⟩

/-- Where the wait for byte `j` begins: MSEN and START are written, and for the last byte its STOP (R134). -/
def writeHanded (len : BitVec 16) (j : Nat) : Tally :=
  ⟨if j + 1 = len.toNat then [crMsenWord, crStartWord, crStopWord] else [crMsenWord, crStartWord], j + 1, 0, 0⟩

/-- The row of R161 for a write that fails at byte `j`. -/
def writeFailed (len : BitVec 16) (j : Nat) : Tally := (writeHanded len j).add ⟨[crStopWord], 0, 0, 0⟩

theorem byteHanded_tallied (hlen : s.len = len)
    (h : s.Tallied tr ⟨[crMsenWord, crStartWord], s.i.toNat, 0, 0⟩) :
    s.byteHanded.Tallied tr (writeHanded len s.i.toNat) := by
  unfold State.byteHanded State.byteOut State.byteRead writeHanded
  by_cases hl : s.lastByte = true
  · rw [if_pos hl, if_pos (hlen ▸ (lastByte_iff s).1 hl)]
    exact h.append (es := [.bufRead s.i.toNat (s.bufByte s.i.toNat),
      .regWrite s.c .thr (thrWord (s.bufByte s.i.toNat)), .regWrite s.c .cr crStopWord]) (by simp)
  · rw [if_neg hl, if_neg (hlen ▸ mt (lastByte_iff s).2 hl)]
    exact h.append (es := [.bufRead s.i.toNat (s.bufByte s.i.toNat),
      .regWrite s.c .thr (thrWord (s.bufByte s.i.toNat))]) (by simp)

/-- One iteration: the byte is handed over, and if its wait fails that frames the write. -/
theorem writeByte_framed (hlen : s.len = len) (hi : s.i.toNat < s.len.toNat)
    (h : s.Tallied tr ⟨[crMsenWord, crStartWord], s.i.toNat, 0, 0⟩) :
    ∃ t r, s.writeByte = (t, r) ∧ t.i = s.i ∧ t.len = len ∧ t.Tallied tr (writeHanded len s.i.toNat) ∧
      ∀ code, r.faultWord = some code →
        Framed .txrdy len tr (writeDone len) (writeFailed len) (t.failWith code) := by
  have hhanded := byteHanded_tallied hlen h
  obtain ⟨t, r, hb, hti, htlen, -, -⟩ := writeByte_frame hi
  have hw := (writeByte_eq hi).symm.trans hb
  exact ⟨t, r, hb, hti, htlen.trans hlen, hhanded.waited (waited_of_waitWhole hw),
    fun code hr => failWith_framed hw hr hhanded (hlen ▸ hi) rfl⟩

theorem writeLoop_fault {r : WaitResult} {code : Word} (more : Nat) (hb : s.writeByte = (t, r))
    (hr : r.faultWord = some code) : writeLoop more s = t.failWith code := by
  cases r with
  | ok => cases hr
  | noAck => cases hr; exact writeLoop_noAck hb
  | timeout => cases hr; exact writeLoop_timeout hb

/-- The byte loop from byte `i` on frames the write: each byte's wait ends it with the row of its fault, and the last
one's success with the row of the whole. -/
theorem writeLoop_framed (more : Nat) (hlen : s.len = len) (hmore : s.i.toNat + more + 1 = len.toNat)
    (h : s.Tallied tr ⟨[crMsenWord, crStartWord], s.i.toNat, 0, 0⟩) :
    Framed .txrdy len tr (writeDone len) (writeFailed len) (writeLoop more s) := by
  induction more generalizing s with
  | zero =>
    obtain ⟨t, r, hb, -, htlen, htallied, hfault⟩ := writeByte_framed hlen (by rw [hlen]; omega) h
    rcases ok_or_faultWord r with rfl | ⟨code, hr⟩
    · have hdone : writeHanded len s.i.toNat = writeDone len := by
        rw [writeHanded, if_pos hmore, hmore, writeDone]
      rw [writeLoop_last hb]
      exact respond_framed htlen (hdone ▸ htallied)
    · rw [writeLoop_fault 0 hb hr]
      exact hfault code hr
  | succ more ih =>
    have hi : s.i.toNat < s.len.toNat := by rw [hlen]; omega
    obtain ⟨t, r, hb, hti, htlen, htallied, hfault⟩ := writeByte_framed hlen hi h
    rcases ok_or_faultWord r with rfl | ⟨code, hr⟩
    · have hnext : (t.i + 1).toNat = s.i.toNat + 1 := by
        rw [hti]
        exact i_succ hi
      have hmid : writeHanded len s.i.toNat = ⟨[crMsenWord, crStartWord], (t.i + 1).toNat, 0, 0⟩ := by
        rw [writeHanded, if_neg (by omega), hnext]
      have htallied' : t.Tallied tr ⟨[crMsenWord, crStartWord], (t.i + 1).toNat, 0, 0⟩ := hmid ▸ htallied
      rw [writeLoop_more hb]
      exact ih htlen (by rw [hnext]; omega) htallied'
    · rw [writeLoop_fault (more + 1) hb hr]
      exact hfault code hr

theorem writeStarted_tallied (h : s.Tallied tr (tally [])) :
    s.writeStarted.Tallied tr ⟨[crMsenWord, crStartWord], 0, 0, 0⟩ :=
  h.append (es := [.regWrite s.c .mmr (mmrWord s.sadr s.iasz 0), .regWrite s.c .iadr (iadrWord s.iaddr),
    .regWrite s.c .cr crMsenWord, .regWrite s.c .cr crStartWord]) (by simp [State.writeStarted])

theorem writeWhole_framed (hpos : 0 < s.len.toNat) (h : s.Tallied tr (tally [])) :
    Framed .txrdy s.len tr (writeDone s.len) (writeFailed s.len) (writeWhole s) := by
  obtain ⟨hi, hlen, -, -⟩ := writeStarted_frame s
  rw [writeWhole_eq]
  refine writeLoop_framed _ hlen (by rw [hi]; omega) ?_
  rw [hi]
  exact writeStarted_tallied h

/-- Settles O36: the run ends where the pseudocode does (O35), whose byte loop frames the write
(`writeLoop_framed`). -/
theorem writeFraming : Obligations.WriteFraming := by
  intro s cmd rest handle iasz sadr len iaddr h hp hd hh hl hs
  obtain ⟨k, -, hrun⟩ := writeRefinesPseudocode s cmd rest handle iasz sadr len iaddr h hp hd hh hl hs
  obtain ⟨hphase, es, htrace, hends⟩ := writeWhole_framed (tr := s.trace)
    (s := (s.accept cmd rest).latchTransaction 2 handle iasz sadr len iaddr)
    (by show 0 < len.toNat; bv_omega) ⟨[.cmd cmd.word], rfl, rfl⟩
  refine ⟨k, _, es, hrun, hphase, htrace, ?_⟩
  rcases hends with ⟨pre, hes, hτ⟩ | ⟨pre, v, code, j, hes, hcode, hj, hτ⟩
  · exact .inl ⟨pre, hes, congrArg Tally.thr hτ, congrArg Tally.cr hτ⟩
  · refine .inr ⟨pre, v, code, j, hes, hcode, hj, congrArg Tally.thr hτ, (congrArg Tally.cr hτ).trans ?_⟩
    exact apply_ite (· ++ [crStopWord]) _ _ _

end Sys2Proof.Machine
end

section
/-! PROOFS. The framing of a read (44_register_commands.md R161 rows `read`, R162), read off the pseudocode it runs to
(O43). -/

namespace Sys2Proof.Machine

variable {s t : State} {tr : List Event} {len : BitVec 16}

/-- Where the wait for byte `j` begins: START is written, with STOP for more than one byte (R141, R143). -/
def readBefore (len : BitVec 16) (j : Nat) : Tally :=
  ⟨[if len = 1 then crStartWord else crStartStopWord], 0, j, j⟩

/-- The row of R161 for a read that succeeds. -/
def readDone (len : BitVec 16) : Tally :=
  ⟨if len = 1 then [crStartWord] else [crStartStopWord, crStopWord], 0, len.toNat, len.toNat⟩

/-- The row of R161 for a read that fails at byte `j`. -/
def readFailed (len : BitVec 16) (j : Nat) : Tally := (readBefore len j).add ⟨[crStopWord], 0, 0, 0⟩

theorem readLoop_fault {r : WaitResult} {code : Word} (more : Nat) (hw : waitWhole .rxrdy s = (t, r))
    (hr : r.faultWord = some code) : readLoop more s = t.failWith code := by
  cases r with
  | ok => cases hr
  | noAck => cases hr; cases more <;> rw [readLoop, hw]
  | timeout => cases hr; cases more <;> rw [readLoop, hw]

theorem readByte_tallied {j : Nat} (h : s.Tallied tr (readBefore len j)) :
    s.readByte.Tallied tr ((readBefore len j).add ⟨[], 0, 1, 1⟩) :=
  h.append (es := [.regRead s.c .rhr s.rhrAnswer, .bufWrite s.i.toNat (rhrByte s.rhrAnswer)])
    (by simp [State.readByte])

theorem readBefore_succ (len : BitVec 16) (j : Nat) :
    (readBefore len j).add ⟨[], 0, 1, 1⟩ = readBefore len (j + 1) := by
  rfl

theorem readBefore_len_one (h : len = 1) : readBefore len len.toNat = readDone len := by
  rw [readBefore, if_pos h, readDone, if_pos h]

theorem readBefore_len_several (h : len ≠ 1) :
    (readBefore len len.toNat).add ⟨[crStopWord], 0, 0, 0⟩ = readDone len := by
  rw [readBefore, if_neg h, readDone, if_neg h]
  rfl

/-- After the last byte STOP is written again unless it was the only one (R145, R147). -/
theorem readLast_framed (hlen : s.len = len) (hlast : s.i.toNat + 1 = len.toNat)
    (h : s.Tallied tr (readBefore len s.i.toNat)) :
    Framed .rxrdy len tr (readDone len) (readFailed len) s.readLast := by
  have hbyte := readByte_tallied h
  rw [readBefore_succ, hlast] at hbyte
  unfold State.readLast
  by_cases hone : len = 1
  · have hsingle : ¬ 1 < s.len.toNat := by simp [hlen, hone]
    rw [if_neg hsingle]
    exact respond_framed (s := s.readByte) hlen (readBefore_len_one hone ▸ hbyte)
  · have hseveral : 1 < s.len.toNat := by rw [hlen]; bv_omega
    rw [if_pos hseveral, regWrite_cr]
    refine respond_framed (s := { s.readByte with trace := _ }) hlen ?_
    rw [← readBefore_len_several hone]
    exact hbyte.append (es := [.regWrite s.c .cr crStopWord]) rfl

/-- The byte loop from byte `i` on frames the read: each byte's wait ends it with the row of its fault, and the last
one's success with the row of the whole. -/
theorem readLoop_framed (more : Nat) (hlen : s.len = len) (hmore : s.i.toNat + more + 1 = len.toNat)
    (h : s.Tallied tr (readBefore len s.i.toNat)) :
    Framed .rxrdy len tr (readDone len) (readFailed len) (readLoop more s) := by
  induction more generalizing s with
  | zero =>
    obtain ⟨t, r, -, hw, hwaited, -, -⟩ := readWait_run s
    obtain ⟨hti, htlen, -⟩ := hwaited.frame
    rcases ok_or_faultWord r with rfl | ⟨code, hr⟩
    · rw [readLoop_last hw]
      exact readLast_framed (htlen.trans hlen) (by rw [hti]; exact hmore) (hti ▸ h.waited hwaited)
    · rw [readLoop_fault 0 hw hr]
      exact failWith_framed hw hr h (by omega) rfl
  | succ more ih =>
    obtain ⟨t, r, -, hw, hwaited, -, -⟩ := readWait_run s
    obtain ⟨hti, htlen, -⟩ := hwaited.frame
    rcases ok_or_faultWord r with rfl | ⟨code, hr⟩
    · have hnext : (t.i + 1).toNat = s.i.toNat + 1 := by
        rw [hti]
        exact i_succ (by rw [hlen]; omega)
      have hbyte := readByte_tallied (h.waited hwaited)
      rw [readBefore_succ, ← hnext] at hbyte
      rw [readLoop_more hw]
      exact ih (s := { t.readByte with i := t.i + 1 }) (htlen.trans hlen) (by rw [hnext]; omega) hbyte
    · rw [readLoop_fault (more + 1) hw hr]
      exact failWith_framed hw hr h (by omega) rfl

theorem readStarted_tallied (h : s.Tallied tr (tally [])) :
    s.readStarted.Tallied tr (readBefore s.len 0) :=
  h.append (es := [.regWrite s.c .mmr (mmrWord s.sadr s.iasz 1), .regWrite s.c .iadr (iadrWord s.iaddr),
    .regWrite s.c .cr (if s.len = 1 then crStartWord else crStartStopWord)]) (by simp [State.readStarted])

theorem readWhole_framed (hpos : 0 < s.len.toNat) (h : s.Tallied tr (tally [])) :
    Framed .rxrdy s.len tr (readDone s.len) (readFailed s.len) (readWhole s) := by
  obtain ⟨hi, hlen, -, -⟩ := readStarted_frame s
  rw [readWhole_eq]
  refine readLoop_framed _ hlen (by rw [hi]; omega) ?_
  rw [hi]
  exact readStarted_tallied h

/-- Settles O44: the run ends where the pseudocode does (O43), whose byte loop frames the read
(`readLoop_framed`). -/
theorem readFraming : Obligations.ReadFraming := by
  intro s cmd rest handle iasz sadr len iaddr h hp hd hh hl hs
  obtain ⟨k, -, hrun⟩ := readRefinesPseudocode s cmd rest handle iasz sadr len iaddr h hp hd hh hl hs
  obtain ⟨hphase, es, htrace, hends⟩ := readWhole_framed (tr := s.trace)
    (s := (s.accept cmd rest).latchTransaction 3 handle iasz sadr len iaddr)
    (by show 0 < len.toNat; bv_omega) ⟨[.cmd cmd.word], rfl, rfl⟩
  have hthr : thrWords es = [] := by
    rw [← List.length_eq_zero_iff]
    rcases hends with ⟨_, -, hτ⟩ | ⟨_, _, _, _, -, -, -, hτ⟩ <;> exact congrArg Tally.thr hτ
  refine ⟨k, _, es, hrun, hphase, htrace, hthr, ?_⟩
  rcases hends with ⟨pre, hes, hτ⟩ | ⟨pre, v, code, j, hes, hcode, hj, hτ⟩
  · exact .inl ⟨pre, hes, congrArg Tally.rhr hτ, congrArg Tally.buf hτ, congrArg Tally.cr hτ⟩
  · refine .inr ⟨pre, v, code, j, hes, hcode, hj, congrArg Tally.rhr hτ, congrArg Tally.buf hτ,
      (congrArg Tally.cr hτ).trans ?_⟩
    exact apply_ite (fun w => [w, crStopWord]) _ _ _

end Sys2Proof.Machine
end

section
/-! PROOFS. The exit of a failed transaction (60_exceptions.md R171, R173): the forced STOP, the response, `IDLE`. -/

namespace Sys2Proof.Machine

variable {s : State}

/-- A write of CR stores nothing in the block (R29), so the forced STOP is an event and a change of phase. -/
theorem step_forcedStop_frame {ready : ReadyBit} (h : s.phase = forcedStopPhase ready) :
    step s = .next { s with phase := .rsp, trace := s.trace ++ [.regWrite s.c .cr crStopWord] } := by
  rw [step_forcedStop h, regWrite_cr]
  rfl

/-- Settles O33: in the phases named the command is the step of the phase, which is the forced STOP of either
transaction (`step_forcedStop_frame`) or the response. -/
theorem forcedStopAndResponse : Obligations.ForcedStopAndResponse := by
  refine fun handle iasz sadr len iaddr s => ⟨fun h => ?_, fun h => ?_, fun h => ⟨?_, ?_⟩⟩
  · rw [exec_masterWrite_own _ _ _ _ _ (.inl (by rw [h]; rfl))]
    exact step_forcedStop_frame (ready := .txrdy) h
  · rw [exec_masterRead_own _ _ _ _ _ (.inl (by rw [h]; rfl))]
    exact step_forcedStop_frame (ready := .rxrdy) h
  · rw [exec_masterWrite_own _ _ _ _ _ (.inr h)]
    exact step_rsp h
  · rw [exec_masterRead_own _ _ _ _ _ (.inr h)]
    exact step_rsp h

end Sys2Proof.Machine
end

section
/-! PROOFS. The clock of a channel is on at each access of its registers (70_reset_and_hazards.md R197): the CWGR
row comes after `ClockEnable` (R111), and a transaction runs on an initialised channel only (R26). -/

namespace Sys2Proof.Machine

variable {s : State}

/-- A register access is of the latched channel, in the CWGR row of an `INIT` or in a transaction (R23). -/
theorem nextEvent_regAccess {e : Event} {c : Channel} {r : Reg} {v : Word} (he : s.nextEvent = some e)
    (ha : e = .regWrite c r v ∨ e = .regRead c r v) :
    c = s.c ∧ (s.phase = .iCwgr ∨ s.phase.ofTransaction = true) := by
  rcases h : s.phase
  case idle =>
    obtain ⟨cmd, -, rfl⟩ : ∃ cmd, s.port.head? = some cmd ∧ Event.cmd cmd.word = e := by
      simpa [State.nextEvent, h] using he
    rcases ha with ha | ha <;> cases ha
  all_goals
    simp only [State.nextEvent, h, Option.some.injEq] at he
    subst he
    rcases ha with ha | ha <;> cases ha
  case iCwgr => exact ⟨rfl, .inl rfl⟩
  all_goals exact ⟨rfl, .inr rfl⟩

theorem gate_of_iCwgr (hok : s.positionOk = true) (h : s.phase = .iCwgr) : s.gate s.c = .enabled := by
  have hpos : s.op = 1 ∧ s.gate s.c = .enabled := by simpa [State.positionOk, h] using hok
  exact hpos.2

/-- A transaction runs on an initialised channel only (R26, R43). -/
theorem initDone_of_ofTransaction (hok : s.positionOk = true) (hp : s.phase.ofTransaction = true) :
    (s.slot s.c).initDone = true := by
  rcases h : s.phase <;>
    simp_all [State.positionOk, Phase.ofTransaction, Phase.ofWrite, Phase.ofRead, State.transacting]

theorem channelOk_of_inv (hinv : s.Inv) (c : Channel) : s.channelOk c = true := by
  obtain ⟨-, h0, h1, -⟩ := hinv
  rcases channel_cases c with rfl | rfl
  · exact h0
  · exact h1

/-- Settles O57: the access is the event of the phase (O13); in the CWGR row the position has the gate enabled, and
the channel of a transaction is initialised, so the registry's clause has it enabled. -/
theorem clockOnBeforeRegisterAccess : Obligations.ClockOnBeforeRegisterAccess := by
  intro s t c r v hinv hs htrace
  have hpos : s.positionOk = true := hinv.1
  rcases oneEventPerPhase s t hs with ⟨-, rfl⟩ | ⟨e, he, hadd⟩
  · simp at htrace
  · have ha : e = .regWrite c r v ∨ e = .regRead c r v := by simpa [hadd] using htrace
    obtain ⟨rfl, hcwgr | htransaction⟩ := nextEvent_regAccess he ha
    · exact gate_of_iCwgr hpos hcwgr
    · exact ((channelOk_iff s.c).1 (channelOk_of_inv hinv s.c)
        (initDone_of_ofTransaction hpos htransaction)).1

end Sys2Proof.Machine
end
